-- ==== Sys2Proof/Word.lean ====
section
/-! DEFINITION. The two word types of the block (spec/00_scope.md R20): a byte and an unsigned 16-bit value. Counts, lengths and
offsets are naturals (R22); byte lists are lists (R21). -/

namespace Sys2Proof

/-- R20: a byte is an unsigned 8-bit value. -/
abbrev Byte := BitVec 8

/-- R20: `u16`, an unsigned 16-bit value. -/
abbrev Word := BitVec 16

end Sys2Proof
end

