-- ==== Sys2Proof/Config.lean ====
section
/-! DEFINITION. The parameters of one build (spec/00_scope.md R8-R19) and the free values. The parameters are a record of plain
data that State carries and no step writes: a statement about every state is a statement about every parameter set (Log 1). -/

namespace Sys2Proof

/-- R14: whether WRITE_BLOCKING's implicit flush is immediate or delayed. -/
inductive FlushMode where
  | immediate
  | delayed
deriving DecidableEq, Repr

/-- R15: whether transport events are delivered by interrupts or only while MAIN polls. -/
inductive TransportMode where
  | interrupt
  | polled
deriving DecidableEq, Repr

/-- The parameters of a build, "compile/link-time, not runtime" (spec/00_scope.md R8-R19). `TX_PKT_MAX` and `INT_IN_DEPTH` are
derived (Sys2Proof/Machine/Params.lean). -/
structure Config where
  /-- RX_BUF_SIZE (R8). -/
  rxBufSize : Nat
  /-- BULK_IN_MPS (R9). -/
  bulkInMps : Nat
  /-- TX_BUF_SIZE (R10). -/
  txBufSize : Nat
  /-- EP0_MPS (R12). -/
  ep0Mps : Nat
  /-- INT_IN_MPS (R13). -/
  intInMps : Nat
  /-- FLUSH_MODE (R14). -/
  flushMode : FlushMode
  /-- TRANSPORT_MODE (R15). -/
  transportMode : TransportMode
  /-- BULK_IN_DEPTH (R16). -/
  bulkInDepth : Nat
  /-- COMM_IF (R17). -/
  commIf : Byte
  /-- DATA_IF (R17). -/
  dataIf : Byte
  /-- TRANSPORT_MAY_REFUSE (R18). -/
  mayRefuse : Bool
  /-- ENCAP_POWERON (R19): the 8 bytes of EncapsulatedCommand at power-on. -/
  encapPowerOn : List Byte
deriving DecidableEq, Repr

/-- FREE VALUE (R18, R25 `draw d`, spec/46_transport_host.md R190; Log 9): the n-th answer a transport that may refuse gives to a
free query. -/
opaque Config.freeAnswer : Nat → Bool

/-- FREE VALUE (R19, spec/10_state.md R54; Log 2): byte `i` of ENCAP_POWERON in the parameter set of `State.reset`. -/
opaque Config.freeEncapByte : Nat → Byte

/-- FREE VALUE (Log 10): what a buffer reads as at an offset past its capacity. Spec/20_memory.md R62: no rule makes such a read. -/
opaque Config.freeByte : Nat → Byte

/-- The parameter set of `State.reset`: the vector defaults of spec/95_test_vectors.md section 1.1 (DESIGN CHOICE, Log 1), with
ENCAP_POWERON left free (Log 2). -/
def Config.vectors : Config :=
  { rxBufSize := 64
    bulkInMps := 8
    txBufSize := 8
    ep0Mps := 64
    intInMps := 16
    flushMode := .immediate
    transportMode := .interrupt
    bulkInDepth := 1
    commIf := 0
    dataIf := 1
    mayRefuse := false
    encapPowerOn :=
      [Config.freeEncapByte 0, Config.freeEncapByte 1, Config.freeEncapByte 2, Config.freeEncapByte 3,
        Config.freeEncapByte 4, Config.freeEncapByte 5, Config.freeEncapByte 6, Config.freeEncapByte 7] }

end Sys2Proof
end

