-- ==== Sys2Proof/Machine/Params.lean ====
section
/-! DEFINITION. What is derived from the parameters: TX_PKT_MAX (spec/00_scope.md R11), INT_IN_DEPTH (R16), and the constraints
whose breach is BAD_CONFIG (R8-R19, spec/60_exceptions.md R224). -/

namespace Sys2Proof

/-- R11: `TX_PKT_MAX = min(TX_BUF_SIZE, BULK_IN_MPS) - 1`, the most bytes one flush hands over. -/
def Config.txPktMax (c : Config) : Nat := min c.txBufSize c.bulkInMps - 1

/-- R16: `INT_IN_DEPTH = 1`. -/
def Config.intInDepth (_ : Config) : Nat := 1

/-- R17, R111: an interface number that names the CDC control or data interface. -/
def Config.isCdcInterface (c : Config) (n : Byte) : Bool := n == c.commIf || n == c.dataIf

/-- R224: the constraints of R8-R19; a parameter set that breaks one is BAD_CONFIG. -/
def Config.valid (c : Config) : Bool :=
  decide (1 ≤ c.rxBufSize) && decide (2 ≤ c.bulkInMps) && decide (c.bulkInMps ≤ c.txBufSize)
    && (c.ep0Mps == 8 || c.ep0Mps == 16 || c.ep0Mps == 32 || c.ep0Mps == 64)
    && decide (10 ≤ c.intInMps) && (c.bulkInDepth == 1 || c.bulkInDepth == 2)
    && c.commIf != c.dataIf && c.encapPowerOn.length == 8

end Sys2Proof
end

