-- ==== Sys2Proof/Syntax.lean ====
section
/-! DEFINITION. The operations of the block as syntax: one constructor of `Instr` per row of spec/opcode_table.json
(spec/30_encoding.md R92). -/

namespace Sys2Proof

/-- The three agents (spec/00_scope.md R5). -/
inductive Agent where
  | main
  | irq
  | env
deriving DecidableEq, Repr

/-- The ctx bit of an application-port request (spec/30_encoding.md R90): 0 = MAIN, 1 = ISR. -/
inductive Ctx where
  | main
  | isr
deriving DecidableEq, Repr

/-- A SETUP packet, W-SETUP, as its five fields (spec/30_encoding.md R81). -/
structure Setup where
  bmRequestType : Byte
  bRequest : Byte
  wValue : Word
  wIndex : Word
  wLength : Word
deriving DecidableEq, Repr

/-- The operands of a CDC request whose type is class and whose recipient is an interface: the direction bit (spec/30_encoding.md
R83, ignored by the block, R95) and the three 16-bit fields. -/
structure Request where
  deviceToHost : Bool
  wValue : Word
  wIndex : Word
  wLength : Word
deriving DecidableEq, Repr

/-- One operation. The first 28 constructors are the OPW rows (R92), the last seven the SETUP16 rows, which ON_SETUP_RECEIVED
decodes from the latched SETUP packet. -/
inductive Instr where
  | read (ctx : Ctx)
  | hasData (ctx : Ctx)
  | discard (ctx : Ctx)
  | availableSpace (ctx : Ctx)
  | writeBlocking (ctx : Ctx) (b : Byte)
  | writeFast (ctx : Ctx) (b : Byte)
  | writeBlock (ctx : Ctx) (bs : List Byte)
  | flush (ctx : Ctx)
  | isEmpty (ctx : Ctx)
  | sendSerialState (ctx : Ctx) (st : Byte)
  | getLineCodingApp (ctx : Ctx)
  | getCarrier (ctx : Ctx)
  | getBreak (ctx : Ctx)
  | isConnected (ctx : Ctx)
  | initializeBlock (ctx : Ctx)
  | onSetupReceived
  | onDataStageComplete
  | onPacketReceived
  | onTransmitComplete
  | maskIrq
  | unmaskIrq
  | poll
  | busReset
  | hostSetup (p : Setup)
  | hostDataOut (d : List Byte)
  | hostBulkOut (d : List Byte)
  | hostAckBulkIn
  | hostAckIntIn
  | sendEncapsulatedCommand (r : Request)
  | getEncapsulatedCommand (r : Request)
  | setLineCoding (r : Request)
  | getLineCoding (r : Request)
  | setControlLineState (r : Request)
  | sendBreak (r : Request)
  | ctrlOther (p : Setup)
deriving DecidableEq, Repr

end Sys2Proof
end

