-- ==== Sys2Proof/WellFormed.lean ====
section
/-! DEFINITION. Which terms of `Instr` are operations of a build: payload lengths that their 16-bit length field can hold
(spec/30_encoding.md R91), and requests that the second decode level dispatches to their own rule (R87, spec/41_control_requests.md
R111). -/

namespace Sys2Proof

/-- R91: a BLOCK or DATA payload has 0..65535 bytes. -/
def blockWf (d : List Byte) : Bool := decide (d.length < 65536)

/-- R111: a request is a CDC request only if `wIndex[7:0]` is COMM_IF or DATA_IF. -/
def Request.wf (c : Config) (r : Request) : Bool := c.isCdcInterface (r.wIndex.extractLsb' 0 8)

/-- R87: the six request codes. -/
def isCdcCode (b : Byte) : Bool := b == 0x00 || b == 0x01 || b == 0x20 || b == 0x21 || b == 0x22 || b == 0x23

/-- R92 (CTRL_OTHER): a SETUP packet that no other SETUP16 row takes, or whose target check fails. -/
def Setup.wfOther (c : Config) (p : Setup) : Bool :=
  !(isCdcCode p.bRequest && p.bmRequestType.extractLsb' 5 2 == 1#2 && p.bmRequestType.extractLsb' 0 5 == 1#5
    && c.isCdcInterface (p.wIndex.extractLsb' 0 8))

/-- The well-formed operations of a build. -/
def Instr.wf (c : Config) : Instr → Bool
  | .read _ | .hasData _ | .discard _ => true
  | .availableSpace _ | .writeBlocking _ _ | .writeFast _ _ => true
  | .writeBlock _ bs => blockWf bs
  | .flush _ | .isEmpty _ | .sendSerialState _ _ => true
  | .getLineCodingApp _ | .getCarrier _ | .getBreak _ | .isConnected _ | .initializeBlock _ => true
  | .onSetupReceived | .onDataStageComplete | .onPacketReceived | .onTransmitComplete => true
  | .maskIrq | .unmaskIrq | .poll | .busReset | .hostSetup _ => true
  | .hostDataOut d => blockWf d
  | .hostBulkOut d => blockWf d
  | .hostAckBulkIn | .hostAckIntIn => true
  | .sendEncapsulatedCommand r => r.wf c
  | .getEncapsulatedCommand r => r.wf c
  | .setLineCoding r => r.wf c
  | .getLineCoding r => r.wf c
  | .setControlLineState r => r.wf c
  | .sendBreak r => r.wf c
  | .ctrlOther p => p.wfOther c

/-- The second-level operations: the SETUP16 rows (R92). -/
def Instr.isRequest : Instr → Bool
  | .read _ | .hasData _ | .discard _ => false
  | .availableSpace _ | .writeBlocking _ _ | .writeFast _ _ | .writeBlock _ _ | .flush _ | .isEmpty _ => false
  | .sendSerialState _ _ => false
  | .getLineCodingApp _ | .getCarrier _ | .getBreak _ | .isConnected _ | .initializeBlock _ => false
  | .onSetupReceived | .onDataStageComplete | .onPacketReceived | .onTransmitComplete => false
  | .maskIrq | .unmaskIrq | .poll => false
  | .busReset | .hostSetup _ | .hostDataOut _ | .hostBulkOut _ | .hostAckBulkIn | .hostAckIntIn => false
  | .sendEncapsulatedCommand _ | .getEncapsulatedCommand _ | .setLineCoding _ | .getLineCoding _ => true
  | .setControlLineState _ | .sendBreak _ | .ctrlOther _ => true

end Sys2Proof
end

