-- ==== Sys2Proof/Decode.lean ====
section
/-! DEFINITION. Decoding, both levels, and the encoder.

First level: the operation word and its payload (spec/30_encoding.md R90-R93, R96, R97, R101). The decoder is total and rejects
by name (spec/60_exceptions.md R223). Second level: the request inside a SETUP packet (R81, R83, R87, R92; R111, R112).
The encoder is written from the same tables. -/

namespace Sys2Proof

/-- Why a word is refused (R223). RESERVED_BITS, UNASSIGNED_OP, WRONG_AGENT, BAD_OPERAND. -/
inductive DecodeRefusal where
  | reservedBits
  | unassignedOp
  | wrongAgent
  | badOperand
deriving DecidableEq, Repr

/-- The assigned operation codes (R92). -/
inductive Op where
  | read | hasData | discard
  | availableSpace | writeBlocking | writeFast | writeBlock | flush | isEmpty
  | sendSerialState
  | getLineCodingApp | getCarrier | getBreak | isConnected
  | initializeBlock
  | onSetupReceived | onDataStageComplete | onPacketReceived | onTransmitComplete
  | maskIrq | unmaskIrq | poll
  | busReset | hostSetup | hostDataOut | hostBulkOut | hostAckBulkIn | hostAckIntIn
deriving DecidableEq, Repr

/-- R92: the op code of each operation. -/
def Op.code : Op → Byte
  | .read => 0x10
  | .hasData => 0x11
  | .discard => 0x12
  | .availableSpace => 0x20
  | .writeBlocking => 0x21
  | .writeFast => 0x22
  | .writeBlock => 0x23
  | .flush => 0x24
  | .isEmpty => 0x25
  | .sendSerialState => 0x30
  | .getLineCodingApp => 0x40
  | .getCarrier => 0x41
  | .getBreak => 0x42
  | .isConnected => 0x43
  | .initializeBlock => 0x50
  | .onSetupReceived => 0x80
  | .onDataStageComplete => 0x81
  | .onPacketReceived => 0x82
  | .onTransmitComplete => 0x83
  | .maskIrq => 0xC0
  | .unmaskIrq => 0xC1
  | .poll => 0xC2
  | .busReset => 0xC8
  | .hostSetup => 0xD0
  | .hostDataOut => 0xD1
  | .hostBulkOut => 0xD2
  | .hostAckBulkIn => 0xD3
  | .hostAckIntIn => 0xD4

/-- Every operation of R92, in the table's order. -/
def Op.all : List Op :=
  [.read, .hasData, .discard, .availableSpace, .writeBlocking, .writeFast, .writeBlock, .flush, .isEmpty]
    ++ [.sendSerialState, .getLineCodingApp, .getCarrier, .getBreak, .isConnected, .initializeBlock]
    ++ [.onSetupReceived, .onDataStageComplete, .onPacketReceived, .onTransmitComplete, .maskIrq, .unmaskIrq, .poll]
    ++ [.busReset, .hostSetup, .hostDataOut, .hostBulkOut, .hostAckBulkIn, .hostAckIntIn]

/-- The operation a code is assigned to; none for an unassigned code (R96). -/
def Op.ofCode (b : Byte) : Option Op := Op.all.find? fun o => o.code == b

/-- R92, the group column: an application-port operation. -/
def Op.isApp : Op → Bool
  | .read | .hasData | .discard => true
  | .availableSpace | .writeBlocking | .writeFast | .writeBlock | .flush | .isEmpty => true
  | .sendSerialState => true
  | .getLineCodingApp | .getCarrier | .getBreak | .isConnected => true
  | .initializeBlock => true
  | .onSetupReceived | .onDataStageComplete | .onPacketReceived | .onTransmitComplete => false
  | .maskIrq | .unmaskIrq | .poll => false
  | .busReset | .hostSetup | .hostDataOut | .hostBulkOut | .hostAckBulkIn | .hostAckIntIn => false

/-- The agent that issues a request with a given ctx bit (R90, R92: MAIN with c = 0, IRQ with c = 1). -/
def Ctx.agent : Ctx → Agent
  | .main => .main
  | .isr => .irq

/-- R92, the agent column: the one agent that may issue the operation with this ctx bit. -/
def Op.agent (o : Op) (ctx : Ctx) : Agent :=
  match o with
  | .read | .hasData | .discard => ctx.agent
  | .availableSpace | .writeBlocking | .writeFast | .writeBlock | .flush | .isEmpty => ctx.agent
  | .sendSerialState => ctx.agent
  | .getLineCodingApp | .getCarrier | .getBreak | .isConnected => ctx.agent
  | .initializeBlock => ctx.agent
  | .onSetupReceived | .onDataStageComplete | .onPacketReceived | .onTransmitComplete => .irq
  | .maskIrq | .unmaskIrq | .poll => .main
  | .busReset | .hostSetup | .hostDataOut | .hostBulkOut | .hostAckBulkIn | .hostAckIntIn => .env

/-- R21: `u16le(b0, b1)`. -/
def u16le (lo hi : Byte) : Word := BitVec.append hi lo

/-- R21: `le16(v)`, the low byte first. -/
def le16 (v : Word) : List Byte := [v.extractLsb' 0 8, v.extractLsb' 8 8]

/-- R90: the reserved bits 15:9 of an operation word. -/
def reservedField (w : Word) : BitVec 7 := w.extractLsb' 9 7

/-- R90: the ctx bit, bit 8. -/
def ctxBit (w : Word) : Bool := w.getLsbD 8

/-- R90: the op code, bits 7:0. -/
def opField (w : Word) : Byte := w.extractLsb' 0 8

/-- R93: the decode of an operation word, its checks in the order the rule writes them. -/
def decodeWord (w : Word) : Except DecodeRefusal (Op × Ctx) :=
  if reservedField w ≠ 0 then .error .reservedBits
  else
    match Op.ofCode (opField w) with
    | none => .error .unassignedOp
    | some o =>
      if o.isApp = false ∧ ctxBit w = true then .error .reservedBits
      else .ok (o, if ctxBit w then .isr else .main)

/-- The payload BYTE or SSTATE (R91): one byte. -/
def takeByte : List Byte → Option (Byte × List Byte)
  | [] => none
  | b :: rest => some (b, rest)

/-- The payload BLOCK or DATA (R91): `le16(len)` then `len` bytes. -/
def takeBlock : List Byte → Option (List Byte × List Byte)
  | lo :: hi :: rest =>
    if (u16le lo hi).toNat ≤ rest.length then
      some (rest.take (u16le lo hi).toNat, rest.drop (u16le lo hi).toNat)
    else none
  | _ => none

/-- The payload SETUP8 (R91, R81): the eight bytes of a SETUP packet. -/
def takeSetup : List Byte → Option (Setup × List Byte)
  | b0 :: b1 :: b2 :: b3 :: b4 :: b5 :: b6 :: b7 :: rest =>
    some (⟨b0, b1, u16le b2 b3, u16le b4 b5, u16le b6 b7⟩, rest)
  | _ => none

/-- R91: the payload the op code selects, and the operation it completes. -/
def decodePayload (o : Op) (ctx : Ctx) (bs : List Byte) : Option (Instr × List Byte) :=
  match o with
  | .read => some (.read ctx, bs)
  | .hasData => some (.hasData ctx, bs)
  | .discard => some (.discard ctx, bs)
  | .availableSpace => some (.availableSpace ctx, bs)
  | .writeBlocking => (takeByte bs).map fun x => (.writeBlocking ctx x.1, x.2)
  | .writeFast => (takeByte bs).map fun x => (.writeFast ctx x.1, x.2)
  | .writeBlock => (takeBlock bs).map fun x => (.writeBlock ctx x.1, x.2)
  | .flush => some (.flush ctx, bs)
  | .isEmpty => some (.isEmpty ctx, bs)
  | .sendSerialState => (takeByte bs).map fun x => (.sendSerialState ctx x.1, x.2)
  | .getLineCodingApp => some (.getLineCodingApp ctx, bs)
  | .getCarrier => some (.getCarrier ctx, bs)
  | .getBreak => some (.getBreak ctx, bs)
  | .isConnected => some (.isConnected ctx, bs)
  | .initializeBlock => some (.initializeBlock ctx, bs)
  | .onSetupReceived => some (.onSetupReceived, bs)
  | .onDataStageComplete => some (.onDataStageComplete, bs)
  | .onPacketReceived => some (.onPacketReceived, bs)
  | .onTransmitComplete => some (.onTransmitComplete, bs)
  | .maskIrq => some (.maskIrq, bs)
  | .unmaskIrq => some (.unmaskIrq, bs)
  | .poll => some (.poll, bs)
  | .busReset => some (.busReset, bs)
  | .hostSetup => (takeSetup bs).map fun x => (.hostSetup x.1, x.2)
  | .hostDataOut => (takeBlock bs).map fun x => (.hostDataOut x.1, x.2)
  | .hostBulkOut => (takeBlock bs).map fun x => (.hostBulkOut x.1, x.2)
  | .hostAckBulkIn => some (.hostAckBulkIn, bs)
  | .hostAckIntIn => some (.hostAckIntIn, bs)

/-- R93, R101: the operation an agent's bytes stand for, with the bytes after it; the word low byte first, then the agent check,
then the payload. Fewer than two bytes hold no operation word: BAD_OPERAND (Log 13). -/
def decode (a : Agent) (bs : List Byte) : Except DecodeRefusal (Instr × List Byte) :=
  match bs with
  | lo :: hi :: rest =>
    match decodeWord (u16le lo hi) with
    | .error e => .error e
    | .ok (o, ctx) =>
      if o.agent ctx = a then
        match decodePayload o ctx rest with
        | some r => .ok r
        | none => .error .badOperand
      else .error .wrongAgent
  | _ => .error .badOperand

/-! ### The second decode level -/

/-- The seven SETUP16 rows (R92, R87). -/
inductive RequestKind where
  | sendEncapsulatedCommand
  | getEncapsulatedCommand
  | setLineCoding
  | getLineCoding
  | setControlLineState
  | sendBreak
  | other
deriving DecidableEq, Repr

/-- R111: class type, interface recipient, and `wIndex[7:0]` one of the two CDC interfaces. Bit 7 (direction) is not tested. -/
def targetOk (c : Config) (p : Setup) : Bool :=
  p.bmRequestType.extractLsb' 5 2 == 1#2 && p.bmRequestType.extractLsb' 0 5 == 1#5
    && c.isCdcInterface (p.wIndex.extractLsb' 0 8)

/-- R87: the request-code map, for a request that passed the target check. -/
def kindOfCode (b : Byte) : RequestKind :=
  if b = 0x00 then .sendEncapsulatedCommand
  else if b = 0x01 then .getEncapsulatedCommand
  else if b = 0x20 then .setLineCoding
  else if b = 0x21 then .getLineCoding
  else if b = 0x22 then .setControlLineState
  else if b = 0x23 then .sendBreak
  else .other

/-- R110-R112: the rule a SETUP packet is dispatched to; `other` also when the target check fails. -/
def requestKind (c : Config) (p : Setup) : RequestKind := if targetOk c p then kindOfCode p.bRequest else .other

/-- The operands of a request, pulled out of its SETUP packet (R83, R84-R86). -/
def Setup.request (p : Setup) : Request := ⟨p.bmRequestType.getLsbD 7, p.wValue, p.wIndex, p.wLength⟩

/-- R112: the request a SETUP packet stands for. -/
def decodeSetup (c : Config) (p : Setup) : Instr :=
  match requestKind c p with
  | .sendEncapsulatedCommand => .sendEncapsulatedCommand p.request
  | .getEncapsulatedCommand => .getEncapsulatedCommand p.request
  | .setLineCoding => .setLineCoding p.request
  | .getLineCoding => .getLineCoding p.request
  | .setControlLineState => .setControlLineState p.request
  | .sendBreak => .sendBreak p.request
  | .other => .ctrlOther p

/-! ### The encoder -/

/-- R81: the eight bytes of a SETUP packet. -/
def Setup.bytes (p : Setup) : List Byte :=
  [p.bmRequestType, p.bRequest] ++ le16 p.wValue ++ le16 p.wIndex ++ le16 p.wLength

/-- R83: the bmRequestType of a class request to an interface: 0x21 host-to-device, 0xA1 device-to-host. -/
def Request.bmRequestType (r : Request) : Byte := if r.deviceToHost then 0xA1 else 0x21

/-- The SETUP packet of a CDC request with this code. -/
def Request.setup (r : Request) (code : Byte) : Setup := ⟨r.bmRequestType, code, r.wValue, r.wIndex, r.wLength⟩

/-- R90, R101: the two bytes of an operation word, low byte first; the ctx bit is bit 8. -/
def opBytes (o : Op) (ctx : Ctx) : List Byte := [o.code, if ctx = .isr then 1 else 0]

/-- The payload BLOCK or DATA of a byte list (R91). -/
def blockBytes (d : List Byte) : List Byte := le16 (BitVec.ofNat 16 d.length) ++ d

/-- The bytes of an operation: the operation word and its payload (R101), or for a request the SETUP packet that carries it. -/
def encode : Instr → List Byte
  | .read ctx => opBytes .read ctx
  | .hasData ctx => opBytes .hasData ctx
  | .discard ctx => opBytes .discard ctx
  | .availableSpace ctx => opBytes .availableSpace ctx
  | .writeBlocking ctx b => opBytes .writeBlocking ctx ++ [b]
  | .writeFast ctx b => opBytes .writeFast ctx ++ [b]
  | .writeBlock ctx bs => opBytes .writeBlock ctx ++ blockBytes bs
  | .flush ctx => opBytes .flush ctx
  | .isEmpty ctx => opBytes .isEmpty ctx
  | .sendSerialState ctx st => opBytes .sendSerialState ctx ++ [st]
  | .getLineCodingApp ctx => opBytes .getLineCodingApp ctx
  | .getCarrier ctx => opBytes .getCarrier ctx
  | .getBreak ctx => opBytes .getBreak ctx
  | .isConnected ctx => opBytes .isConnected ctx
  | .initializeBlock ctx => opBytes .initializeBlock ctx
  | .onSetupReceived => opBytes .onSetupReceived .main
  | .onDataStageComplete => opBytes .onDataStageComplete .main
  | .onPacketReceived => opBytes .onPacketReceived .main
  | .onTransmitComplete => opBytes .onTransmitComplete .main
  | .maskIrq => opBytes .maskIrq .main
  | .unmaskIrq => opBytes .unmaskIrq .main
  | .poll => opBytes .poll .main
  | .busReset => opBytes .busReset .main
  | .hostSetup p => opBytes .hostSetup .main ++ p.bytes
  | .hostDataOut d => opBytes .hostDataOut .main ++ blockBytes d
  | .hostBulkOut d => opBytes .hostBulkOut .main ++ blockBytes d
  | .hostAckBulkIn => opBytes .hostAckBulkIn .main
  | .hostAckIntIn => opBytes .hostAckIntIn .main
  | .sendEncapsulatedCommand r => (r.setup 0x00).bytes
  | .getEncapsulatedCommand r => (r.setup 0x01).bytes
  | .setLineCoding r => (r.setup 0x20).bytes
  | .getLineCoding r => (r.setup 0x21).bytes
  | .setControlLineState r => (r.setup 0x22).bytes
  | .sendBreak r => (r.setup 0x23).bytes
  | .ctrlOther p => p.bytes

/-- R92: the agent that issues an operation. A request is carried out inside the IRQ step of ON_SETUP_RECEIVED (R112). -/
def Instr.agent : Instr → Agent
  | .read ctx | .hasData ctx | .discard ctx => ctx.agent
  | .availableSpace ctx | .writeBlocking ctx _ | .writeFast ctx _ | .writeBlock ctx _ | .flush ctx | .isEmpty ctx => ctx.agent
  | .sendSerialState ctx _ => ctx.agent
  | .getLineCodingApp ctx | .getCarrier ctx | .getBreak ctx | .isConnected ctx => ctx.agent
  | .initializeBlock ctx => ctx.agent
  | .onSetupReceived | .onDataStageComplete | .onPacketReceived | .onTransmitComplete => .irq
  | .maskIrq | .unmaskIrq | .poll => .main
  | .busReset | .hostSetup _ | .hostDataOut _ | .hostBulkOut _ | .hostAckBulkIn | .hostAckIntIn => .env
  | .sendEncapsulatedCommand _ | .getEncapsulatedCommand _ | .setLineCoding _ | .getLineCoding _ => .irq
  | .setControlLineState _ | .sendBreak _ | .ctrlOther _ => .irq

/-! ### The opcode table's numbering -/

/-- The bytes of a table word of `nbits` bits: bit 0 is the least significant bit of the first byte; twelve bytes in all, the ones
above `nbits` zero. -/
def tableBytes (nbits w : Nat) : List Byte :=
  ((List.range 12).map fun k => if 8 * k < nbits then BitVec.ofNat 8 (w / 2 ^ (8 * k)) else 0)

/-- The operation some agent may issue with these bytes. An accepted word belongs to one agent only (R92). -/
def decodeAnyAgent (bs : List Byte) : Option Instr :=
  match decode .main bs, decode .irq bs, decode .env bs with
  | .ok (i, _), _, _ => some i
  | _, .ok (i, _), _ => some i
  | _, _, .ok (i, _) => some i
  | _, _, _ => none

/-- The instruction of a table word: the first decode level where the operation word is accepted, else the second, the bytes
read as a SETUP packet under the parameter set of `State.reset` (Log 14). -/
def decodeTableWord (nbits w : Nat) : Option Instr :=
  match decodeAnyAgent (tableBytes nbits w) with
  | some i => some i
  | none => (takeSetup (tableBytes nbits w)).map fun x => decodeSetup Config.vectors x.1

end Sys2Proof
end

