-- ==== Sys2Proof/Machine/State.lean ====
section
/-! DEFINITION. The state (spec/10_state.md), the reasons a step can stop, and the state at power-on. The parts carry the spec's
letters: `S` the block with the model's marks (R32, R45), `T` the transport (R42), `H` the host record (R43), `C` the context
(R44). -/

namespace Sys2Proof.Machine

/-- ControlState (R39). -/
inductive ControlState where
  | idle
  | awaitingEncapsulatedCommand
  | awaitingLineCoding
  | awaitingZeroLengthAck
deriving DecidableEq, Repr

/-- The fault reasons (spec/60_exceptions.md R220). -/
inductive FaultReason where
  | notInitialized
  | blockingDeadlock
  | rxOversize
  | dataStageLength
deriving DecidableEq, Repr

/-- The four storage areas (spec/20_memory.md R60), each as the list of its bytes by offset. -/
structure Memory where
  /-- `rx.data` -/
  rxData : List Byte
  /-- `tx.data` -/
  txData : List Byte
  /-- `encap` -/
  encap : List Byte
  /-- `lc` -/
  lc : List Byte
deriving DecidableEq, Repr

/-- The block state (R32) and the three marks of R45. -/
structure Block where
  mem : Memory
  /-- `carrier.dte` -/
  carrierDte : Bool
  /-- `carrier.act` -/
  carrierAct : Bool
  brk : Word
  conn : Bool
  cs : ControlState
  /-- `rx.len` -/
  rxLen : Nat
  /-- `rx.cur` -/
  rxCur : Nat
  /-- `rx.pend` -/
  rxPend : Bool
  /-- `tx.fill` -/
  txFill : Nat
  /-- `tx.inflight` -/
  txInflight : Nat
  init : Bool
  fault : Option FaultReason
  refused : Bool
deriving DecidableEq, Repr

/-- One entry of the transport log (spec/46_transport_host.md R191). -/
inductive LogEntry where
  | rearm
  | stall
  | zlStatus
  | dataStage (n : Nat)
  | ctrlIn (bs : List Byte)
  | bulkIn (bs : List Byte)
  | intIn (bs : List Byte)
deriving DecidableEq, Repr

/-- The transport state (R42). -/
structure Transport where
  rxArmed : Bool
  rxLatch : Option (List Byte)
  setupLatch : Option Setup
  ep0Req : Option Nat
  dsLatch : Option (List Byte)
  bulkInQ : List (List Byte)
  bulkInAcked : Nat
  intInQ : List (List Byte)
  log : List LogEntry
deriving DecidableEq, Repr

/-- What the host has received (R43). -/
structure HostRec where
  bulkIn : List (List Byte)
  notif : List (List Byte)
deriving DecidableEq, Repr

/-- MAIN's current request (R44); a held WRITE_BLOCKING keeps its operand (Log 16). -/
inductive MainCtx where
  | ready
  | heldRead
  | heldWrite (b : Byte)
  | polling
deriving DecidableEq, Repr

/-- The context state (R44). -/
structure Context where
  masked : Bool
  main : MainCtx
deriving DecidableEq, Repr

/-- The values application-port requests return (spec/30_encoding.md R98). -/
inductive Ret where
  | nothing
  | byte (b : Byte)
  | bool (v : Bool)
  | nat (n : Nat)
  | bytes (bs : List Byte)
  | carrier (dte act : Bool)
  | word (w : Word)
deriving DecidableEq, Repr

/-- One line of a schedule (spec/30_encoding.md R99, R101): an agent presenting the bytes of one request, or MAIN RESUME, which has
no word. -/
inductive Turn where
  | request (a : Agent) (bytes : List Byte)
  | resume
deriving DecidableEq, Repr

/-- The whole state. `cfg` is fixed for the build (Log 1); `ret`, `draws` and `sched` are the model's own (Log 8, 9, 4). -/
structure State where
  cfg : Config
  S : Block
  T : Transport
  H : HostRec
  C : Context
  /-- the value the last completed application-port request returned -/
  ret : Ret
  /-- how many free draws were taken -/
  draws : Nat
  /-- the turns still to be taken, the next one first -/
  sched : List Turn
deriving DecidableEq, Repr

/-- Why a step of a run can stop for good. -/
inductive Fault where
  /-- Raised by every operation and every turn from a state whose fault mark is set: "With S.fault ≠ none no agent may step"
  (spec/60_exceptions.md R226, R232). Safe: the model stops where the spec's model is stuck. -/
  | stopped (r : FaultReason)
deriving DecidableEq, Repr

/-- The guard that keeps an agent from taking a step (spec/60_exceptions.md R226, spec/46_transport_host.md R200-R209). -/
inductive Guard where
  /-- MAIN is held in a blocking request (spec/45_initialize_context.md R185). -/
  | mainHeld
  /-- RESUME with no request held (R185). -/
  | nothingHeld
  /-- RESUME while the held request's condition is false (R226). -/
  | conditionFalse
  /-- `irqOpen` does not hold (R226). -/
  | irqClosed
  /-- `T.setupLatch = none` (R200). -/
  | noSetup
  /-- `T.dsLatch = none` (R201). -/
  | noDataStage
  /-- `T.rxLatch = none` (R202). -/
  | noPacket
  /-- `T.bulkInAcked = 0` (R203). -/
  | noAcknowledgement
  /-- HOST_DATA_OUT's guard is false (R206). -/
  | dataStageNotRequested
  /-- HOST_BULK_OUT's guard is false: the endpoint is held (R208). -/
  | outEndpointHeld
  /-- `T.bulkInQ = []` (R207). -/
  | bulkInQueueEmpty
  /-- `T.intInQ = []` (R209). -/
  | intInQueueEmpty
deriving DecidableEq, Repr

/-- Why a turn has no step. -/
inductive Refusal where
  /-- Raised by exec for an instruction with no meaning yet. Safe. No arm raises it. -/
  | notModelled (mnemonic : String)
  /-- Raised by an operation whose guard is false: "A step whose guard is false cannot be taken" (spec/30_encoding.md R99; Log 5).
  Safe. -/
  | notAdmitted (g : Guard)
  /-- Raised by step over a parameter set that breaks a constraint: BAD_CONFIG (spec/60_exceptions.md R224; Log 19). Safe. -/
  | badConfig
  /-- Raised by step when the schedule holds no further turn: the run ends (Log 4). Safe. -/
  | noRequest
deriving DecidableEq, Repr

/-- LineCoding's default, 9600-8-N-1 (R49, R50). -/
def lineCodingDefault : List Byte := [0x80, 0x25, 0x00, 0x00, 0x00, 0x00, 0x08]

/-- Power-on (R49-R56, R45): `lc` and `encap` as the spec gives them, the marks, the transport after a bus reset with an empty log,
empty host record, interrupts masked, MAIN ready. The block fields the spec leaves unspecified are false, zero or Idle, and the
two buffers hold zeros (DESIGN CHOICE, Log 3). -/
def State.powerOn (c : Config) : State :=
  { cfg := c
    S :=
      { mem :=
          { rxData := List.replicate c.rxBufSize 0
            txData := List.replicate c.txBufSize 0
            encap := c.encapPowerOn
            lc := lineCodingDefault }
        carrierDte := false
        carrierAct := false
        brk := 0
        conn := false
        cs := .idle
        rxLen := 0
        rxCur := 0
        rxPend := false
        txFill := 0
        txInflight := 0
        init := false
        fault := none
        refused := false }
    T :=
      { rxArmed := true
        rxLatch := none
        setupLatch := none
        ep0Req := none
        dsLatch := none
        bulkInQ := []
        bulkInAcked := 0
        intInQ := []
        log := [] }
    H := { bulkIn := [], notif := [] }
    C := { masked := true, main := .ready }
    ret := .nothing
    draws := 0
    sched := [] }

/-- The state right after reset: power-on under the vector parameters (Log 1), with nothing scheduled. -/
def State.reset : State := State.powerOn Config.vectors

end Sys2Proof.Machine
end

