-- ==== Sys2Proof/Machine/Flags.lean ====
section
/-! DEFINITION. The flags and the conditions the rules test (spec/10_state.md R47; spec/42_rx_path.md R141;
spec/60_exceptions.md R222, R226; spec/30_encoding.md R84), and the numeric codes of the enumerations (R39, R220). -/

namespace Sys2Proof.Machine

/-- R84, R117: `carrier.dte` is bit 0 of wValue's low byte. -/
def carrierDteOf (wValue : Word) : Bool := (wValue.extractLsb' 0 8).getLsbD 0

/-- R84, R117: `carrier.act` is bit 1 of wValue's low byte. -/
def carrierActOf (wValue : Word) : Bool := (wValue.extractLsb' 0 8).getLsbD 1

/-- R141: `nonSuspendable(ctx) = (ctx == ISR) or C.masked`. -/
def nonSuspendable (ctx : Ctx) (s : State) : Bool := ctx == .isr || s.C.masked

/-- R226: MAIN is inside a POLL or held in a blocking request. -/
def MainCtx.dispatches : MainCtx → Bool
  | .ready => false
  | .heldRead => true
  | .heldWrite _ => true
  | .polling => true

/-- R226: `irqOpen`, when IRQ may step. -/
def irqOpen (s : State) : Bool :=
  match s.cfg.transportMode with
  | .interrupt => !s.C.masked
  | .polled => s.C.main.dispatches

/-- R226, R185: MAIN may issue a request when it is ready or polling. -/
def mainFree (s : State) : Bool :=
  match s.C.main with
  | .ready => true
  | .polling => true
  | .heldRead => false
  | .heldWrite _ => false

/-- R151: `cap - tx.fill`. -/
def availableSpace (s : State) : Nat := s.cfg.txBufSize - s.S.txFill

/-- R154: the staging buffer has room for a byte. -/
def txHasRoom (s : State) : Bool := decide (s.S.txFill < s.cfg.txBufSize)

/-- R159: nothing staged and nothing in flight. -/
def txEmpty (s : State) : Bool := s.S.txFill == 0 && s.S.txInflight == 0

/-- R152: when a WRITE_BLOCKING attempts a flush after staging. -/
def flushesImplicitly (s : State) : Bool := s.cfg.flushMode == .immediate || s.S.txFill == s.cfg.txBufSize

/-- R39: the numeric encoding of ControlState. -/
def ControlState.code : ControlState → Nat
  | .idle => 0
  | .awaitingEncapsulatedCommand => 1
  | .awaitingLineCoding => 2
  | .awaitingZeroLengthAck => 3

/-- R220: the codes of the fault reasons. -/
def FaultReason.code : FaultReason → Nat
  | .notInitialized => 1
  | .blockingDeadlock => 2
  | .rxOversize => 3
  | .dataStageLength => 4

end Sys2Proof.Machine
end

