-- ==== Sys2Proof/Machine/Operands.lean ====
section
/-! DEFINITION. How operands are assembled from the wire formats (spec/30_encoding.md R82, R84-R89; spec/10_state.md R33;
spec/44_notification.md R170) and the lengths the TX rules move (spec/43_tx_path.md R153, R157). -/

namespace Sys2Proof.Machine

/-- R85: `min(wLength, 8)`, on the 16-bit unsigned value. -/
def encapLength (r : Request) : Nat := min r.wLength.toNat 8

/-- R89: the named bits of W-SSBITS, at positions 0 to 6. -/
inductive SerialBit where
  | dcd
  | dsr
  | brk
  | ring
  | framing
  | parity
  | overrun
deriving DecidableEq, Repr

/-- R89: the position of each bit. -/
def SerialBit.position : SerialBit → Nat
  | .dcd => 0
  | .dsr => 1
  | .brk => 2
  | .ring => 3
  | .framing => 4
  | .parity => 5
  | .overrun => 6

/-- R99: the SSTATE operand written as the set of flags that are 1. -/
def serialState (flags : List SerialBit) : Byte := flags.foldl (fun b f => b ||| BitVec.ofNat 8 (2 ^ f.position)) 0

/-- R170: the 10-byte SERIAL_STATE notification of a state byte; bit 7 and the last byte are sent as 0. -/
def ssPacket (st : Byte) : List Byte := [0xA1, 0x20, 0x00, 0x00, 0x00, 0x00, 0x02, 0x00, st &&& 0x7F, 0x00]

/-- R153: `min(tx.fill, TX_PKT_MAX)`, the bytes one flush hands over. -/
def flushLength (s : State) : Nat := min s.S.txFill s.cfg.txPktMax

/-- R157: `min(len, TX_PKT_MAX, cap - tx.fill)`, the bytes of a block that are staged. -/
def blockLength (s : State) (bs : List Byte) : Nat :=
  min (min bs.length s.cfg.txPktMax) (s.cfg.txBufSize - s.S.txFill)

/-- R150: the offset a staged byte goes to: `tx.fill`, or the last slot when the buffer is full. -/
def stageOffset (s : State) : Nat :=
  if s.S.txFill < s.cfg.txBufSize then s.S.txFill else s.cfg.txBufSize - 1

/-- R21: `u32le(b0, b1, b2, b3)`. -/
def u32le (b0 b1 b2 b3 : Byte) : Nat := b0.toNat + 2 ^ 8 * b1.toNat + 2 ^ 16 * b2.toNat + 2 ^ 24 * b3.toNat

/-- The fields of LineCoding (R33, R82): rate, stop-bits code, parity code, data bits. -/
structure LineFields where
  rate : Nat
  stopBits : Byte
  parity : Byte
  dataBits : Byte
deriving DecidableEq, Repr

/-- R33: the fields of a 7-byte image. -/
def lineFields : List Byte → Option LineFields
  | [b0, b1, b2, b3, b4, b5, b6] => some ⟨u32le b0 b1 b2 b3, b4, b5, b6⟩
  | _ => none

/-- R33: the stop-bit settings; the block never decodes them. -/
inductive StopBits where
  | one
  | oneAndHalf
  | two
deriving DecidableEq, Repr

/-- R33: the stop-bits codes. -/
def StopBits.ofCode (b : Byte) : Option StopBits :=
  if b = 0x00 then some .one else if b = 0x01 then some .oneAndHalf else if b = 0x02 then some .two else none

/-- R33: the parity settings; the block never decodes them. -/
inductive Parity where
  | none
  | odd
  | even
  | mark
  | space
deriving DecidableEq, Repr

/-- R33: the parity codes. -/
def Parity.ofCode (b : Byte) : Option Parity :=
  if b = 0x00 then some .none
  else if b = 0x01 then some .odd
  else if b = 0x02 then some .even
  else if b = 0x03 then some .mark
  else if b = 0x04 then some .space
  else Option.none

end Sys2Proof.Machine
end

