-- ==== Sys2Proof/Machine/Ops.lean ====
section
/-! DEFINITION. The shared operations: buffer access (spec/00_scope.md R24, spec/20_memory.md R60), raising a fault (R25,
spec/60_exceptions.md R220, R232), when each agent may step (R226, spec/45_initialize_context.md R185), the transport primitives
(spec/46_transport_host.md R190-R199) and giving a value to the caller (spec/30_encoding.md R98).

There is no return from a fault or a handler beside `raiseFault`: "There is no return instruction and no restore, because entry
saved nothing" (R231), and nothing clears the mark (R232). -/

namespace Sys2Proof.Machine

/-! ### Buffers -/

/-- The four storage areas (R60). -/
inductive Area where
  | rxData
  | txData
  | encap
  | lc
deriving DecidableEq, Repr

/-- The bytes of an area. -/
def Memory.area (m : Memory) : Area → List Byte
  | .rxData => m.rxData
  | .txData => m.txData
  | .encap => m.encap
  | .lc => m.lc

/-- An area with all its bytes replaced. -/
def Memory.setArea (m : Memory) (a : Area) (bs : List Byte) : Memory :=
  match a with
  | .rxData => { m with rxData := bs }
  | .txData => { m with txData := bs }
  | .encap => { m with encap := bs }
  | .lc => { m with lc := bs }

/-- R60: the capacity of an area. -/
def Area.capacity (c : Config) : Area → Nat
  | .rxData => c.rxBufSize
  | .txData => c.txBufSize
  | .encap => 8
  | .lc => 7

/-- The canonical form of memory: every area is the list of exactly its capacity's bytes (R60). -/
def Memory.wf (c : Config) (m : Memory) : Bool :=
  m.rxData.length == c.rxBufSize && m.txData.length == c.txBufSize && m.encap.length == 8 && m.lc.length == 7

/-- R24: `buf[off+i] <- bs[i]` for every `i < len(bs)`; an offset past the end is written by no rule (R62) and changes nothing. -/
def writeAt (d : List Byte) (off : Nat) : List Byte → List Byte
  | [] => d
  | b :: bs => writeAt (d.set off b) (off + 1) bs

/-- R24: `MemRead(buf, off, n)`. A range that runs past the capacity, which no rule reads (R62), gives the bytes there are (Log 10, DESIGN
CHOICE). -/
def Memory.read (m : Memory) (a : Area) (off n : Nat) : List Byte := ((m.area a).drop off).take n

/-- R24: `MemWrite(buf, off, bs)`. -/
def Memory.write (m : Memory) (a : Area) (off : Nat) (bs : List Byte) : Memory := m.setArea a (writeAt (m.area a) off bs)

/-- The read of one byte. Past the capacity, where no rule reads (R62), the byte is free (Log 10). -/
def Memory.byte (m : Memory) (a : Area) (off : Nat) : Byte := (m.area a).getD off (Config.freeByte off)

/-! ### Named writes of state -/

/-- The state with another memory. -/
def State.setMem (m : Memory) (s : State) : State := { s with S := { s.S with mem := m } }

/-- `S.cs <- v`. -/
def State.setCs (v : ControlState) (s : State) : State := { s with S := { s.S with cs := v } }

/-- `C.main <- v`. -/
def State.setMain (v : MainCtx) (s : State) : State := { s with C := { s.C with main := v } }

/-- `return v` (R25, R98): the value given to the caller of an application-port request (Log 8). -/
def State.returning (v : Ret) (s : State) : State := { s with ret := v }

/-- `emit E` (R25, R191). -/
def State.emit (e : LogEntry) (s : State) : State := { s with T := { s.T with log := s.T.log ++ [e] } }

/-! ### Faults and outcomes -/

/-- The outcome of one operation. -/
abbrev Out := Host.Outcome State Fault Refusal

/-- What an admitted operation does: the state it ends in, or the fault it raises. -/
abbrev Body := State → Except FaultReason State

/-- R25, R220, R232: taking a fault. The record is the reason alone; no other write of the step is kept. -/
def raiseFault (r : FaultReason) (s : State) : State := { s with S := { s.S with fault := some r } }

/-- The end of a step taken from `s`: its writes, or the fault mark on `s` itself (R232: "the state is the state before the
step, with `S.fault` set"). -/
def commit (s : State) (x : Except FaultReason State) : Out :=
  match x with
  | .ok t => .next t
  | .error r => .next (raiseFault r s)

/-- R226, R232: no agent steps once the fault mark is set. -/
def whileRunning (s : State) (k : Out) : Out :=
  match s.S.fault with
  | some r => .fault (.stopped r)
  | none => k

/-! ### Admission -/

/-- R185: a MAIN step, admitted when MAIN is ready or polling; it first sets `C.main <- ready`. -/
def asMain (s : State) (body : Body) : Out :=
  whileRunning s (if mainFree s then commit s (body (s.setMain .ready)) else .refused (.notAdmitted .mainHeld))

/-- R226: an IRQ step, admitted when `irqOpen`. -/
def asIrq (s : State) (body : Body) : Out :=
  whileRunning s (if irqOpen s then commit s (body s) else .refused (.notAdmitted .irqClosed))

/-- R211: an ENV step, admitted under its own guard `ok` alone. -/
def asEnv (s : State) (ok : Bool) (g : Guard) (t : State) : Out :=
  whileRunning s (if ok then .next t else .refused (.notAdmitted g))

/-- R211: an ENV step with no guard (R204, R205). -/
def asEnvAlways (s t : State) : Out := whileRunning s (.next t)

/-- R92: an application-port request, by MAIN (c = 0) or from an interrupt handler (c = 1). -/
def asApp (ctx : Ctx) (s : State) (body : Body) : Out :=
  match ctx with
  | .main => asMain s body
  | .isr => asIrq s body

/-- R221: `if not S.init: raise Fault(NOT_INITIALIZED)`, before anything else the operation does (R229). -/
def requireInit (body : Body) : Body := fun s => if s.S.init then body s else .error .notInitialized

/-- R200-R203, R226: a transport event, admitted when its latch holds an input and `irqOpen`. -/
def onEvent {α : Type} (latch : Option α) (g : Guard) (s : State) (body : α → Body) : Out :=
  whileRunning s
    (match latch with
    | none => .refused (.notAdmitted g)
    | some a => if irqOpen s then commit s (requireInit (body a) s) else .refused (.notAdmitted .irqClosed))

/-- A pure application-port read (R68): it gives its caller a value and writes nothing. -/
def pureRead (f : State → Ret) : Body := requireInit fun s => .ok (s.returning (f s))

/-! ### The transport primitives -/

/-- The endpoints a packet is enqueued to (R190, R197). -/
inductive InEndpoint where
  | bulkIn
  | intIn
deriving DecidableEq, Repr

/-- R198: the one value the block passes; the transport ignores it. -/
inductive ToggleMode where
  | auto
deriving DecidableEq, Repr

/-- The packets of an endpoint's queue. -/
def State.queue (s : State) : InEndpoint → List (List Byte)
  | .bulkIn => s.T.bulkInQ
  | .intIn => s.T.intInQ

/-- R16: how many packets an endpoint holds. -/
def InEndpoint.depth (c : Config) : InEndpoint → Nat
  | .bulkIn => c.bulkInDepth
  | .intIn => c.intInDepth

/-- R190: the answer the draw of this query allows: a free value when the transport may refuse, else true (Log 9). -/
def drawnAnswer (s : State) : Bool := if s.cfg.mayRefuse then Config.freeAnswer s.draws else true

/-- R190: `endpointTransmitFree(ep)`: the answer. -/
def endpointFree (ep : InEndpoint) (s : State) : Bool :=
  decide ((s.queue ep).length < ep.depth s.cfg) && drawnAnswer s

/-- R190: the draw a free query takes. -/
def State.drawn (s : State) : State := { s with draws := if s.cfg.mayRefuse then s.draws + 1 else s.draws }

/-- R197: the packet appended to its queue and logged. -/
def accept (ep : InEndpoint) (bs : List Byte) (s : State) : State :=
  match ep with
  | .bulkIn => { s with T := { s.T with bulkInQ := s.T.bulkInQ ++ [bs], log := s.T.log ++ [.bulkIn bs] } }
  | .intIn => { s with T := { s.T with intInQ := s.T.intInQ ++ [bs], log := s.T.log ++ [.intIn bs] } }

/-- R197: `enqueueTransmit(ep, bs, toggleMode)`: whether it was accepted, and the state after it. -/
def enqueueTransmit (ep : InEndpoint) (bs : List Byte) (_toggle : ToggleMode) (s : State) : Bool × State :=
  if endpointFree ep s then (true, accept ep bs s.drawn) else (false, s.drawn)

/-- R192: `rearmReceive(BULK_OUT)`. -/
def rearmReceive (s : State) : State := { s with T := { s.T with rxArmed := true, log := s.T.log ++ [.rearm] } }

/-- R193: `stallControlPipe()`. -/
def stallControlPipe (s : State) : State := { s with T := { s.T with ep0Req := none, log := s.T.log ++ [.stall] } }

/-- R194: `sendZeroLengthStatus()`. -/
def sendZeroLengthStatus (s : State) : State := s.emit .zlStatus

/-- R195: `requestDataStage(n)`. -/
def requestDataStage (n : Nat) (s : State) : State :=
  { s with T := { s.T with ep0Req := some n, log := s.T.log ++ [.dataStage n] } }

/-- R196: `sendControlData(bs)`. -/
def sendControlData (bs : List Byte) (s : State) : State := s.emit (.ctrlIn bs)

/-- R199: the capacity query for the OUT endpoint. -/
def outCapacity (s : State) : Nat := s.cfg.rxBufSize

end Sys2Proof.Machine
end

