-- ==== Sys2Proof/Machine/Control.lean ====
section
/-! DEFINITION. The control-request state machine (spec/41_control_requests.md): the six CDC requests and the stall, and the two
transport events ON_SETUP_RECEIVED and ON_DATA_STAGE_COMPLETE.

A request's own rule runs inside the step of ON_SETUP_RECEIVED (R112); `exec` of a SETUP16 constructor is that rule alone, with no
admission of its own (Log 14). -/

namespace Sys2Proof.Machine

/-- R113. -/
def runSendEncapsulatedCommand (r : Request) (s : State) : State :=
  requestDataStage (encapLength r) (s.setCs .awaitingEncapsulatedCommand)

/-- R114. -/
def runGetEncapsulatedCommand (r : Request) (s : State) : State :=
  sendControlData (s.S.mem.read .encap 0 (encapLength r)) s

/-- R115: wLength is not read. -/
def runSetLineCoding (_ : Request) (s : State) : State := requestDataStage 7 (s.setCs .awaitingLineCoding)

/-- R116: wLength is not read. -/
def runGetLineCoding (_ : Request) (s : State) : State := sendControlData (s.S.mem.read .lc 0 7) s

/-- R117. -/
def runSetControlLineState (r : Request) (s : State) : State :=
  sendZeroLengthStatus
    { s with S := { s.S with carrierDte := carrierDteOf r.wValue, carrierAct := carrierActOf r.wValue } }

/-- R118. -/
def runSendBreak (r : Request) (s : State) : State := sendZeroLengthStatus { s with S := { s.S with brk := r.wValue } }

/-- R119, R111. -/
def runCtrlOther (_ : Setup) (s : State) : State := stallControlPipe s

/-- SEND_ENCAPSULATED_COMMAND (R113). -/
def execSendEncapsulatedCommand (r : Request) (s : State) : Out := .next (runSendEncapsulatedCommand r s)

/-- GET_ENCAPSULATED_COMMAND (R114). -/
def execGetEncapsulatedCommand (r : Request) (s : State) : Out := .next (runGetEncapsulatedCommand r s)

/-- SET_LINE_CODING (R115). -/
def execSetLineCoding (r : Request) (s : State) : Out := .next (runSetLineCoding r s)

/-- GET_LINE_CODING (R116). -/
def execGetLineCoding (r : Request) (s : State) : Out := .next (runGetLineCoding r s)

/-- SET_CONTROL_LINE_STATE (R117). -/
def execSetControlLineState (r : Request) (s : State) : Out := .next (runSetControlLineState r s)

/-- SEND_BREAK (R118). -/
def execSendBreak (r : Request) (s : State) : Out := .next (runSendBreak r s)

/-- CTRL_OTHER (R119). -/
def execCtrlOther (p : Setup) (s : State) : Out := .next (runCtrlOther p s)

/-- R112: the one rule a packet is dispatched to. -/
def runRequest (p : Setup) (s : State) : State :=
  match requestKind s.cfg p with
  | .sendEncapsulatedCommand => runSendEncapsulatedCommand p.request s
  | .getEncapsulatedCommand => runGetEncapsulatedCommand p.request s
  | .setLineCoding => runSetLineCoding p.request s
  | .getLineCoding => runGetLineCoding p.request s
  | .setControlLineState => runSetControlLineState p.request s
  | .sendBreak => runSendBreak p.request s
  | .other => runCtrlOther p s

/-- ON_SETUP_RECEIVED (R110), dispatched from `T.setupLatch` (spec/46_transport_host.md R200): `cs <- Idle` first, then the target
check and the dispatch. -/
def execOnSetupReceived (s : State) : Out :=
  onEvent s.T.setupLatch .noSetup s fun p s =>
    .ok (runRequest p (State.setCs .idle { s with T := { s.T with setupLatch := none } }))

/-- R122: copy the command; the bytes past it are kept. -/
def storeEncap (d : List Byte) (s : State) : State := s.setMem (s.S.mem.write .encap 0 d)

/-- R123: the zero-length-stage quirk. -/
def finishEncap (n : Nat) (s : State) : State :=
  if n = s.cfg.ep0Mps then requestDataStage 0 (s.setCs .awaitingZeroLengthAck)
  else (sendZeroLengthStatus s).setCs .idle

/-- R124: the seven bytes stored raw, and the connection flag. -/
def storeLineCoding (d : List Byte) (s : State) : State :=
  (sendZeroLengthStatus { s with S := { s.S with mem := s.S.mem.setArea .lc d, conn := true } }).setCs .idle

/-- R121-R126: onDataStageComplete on the bytes taken from the latch. -/
def completeDataStage (d : List Byte) : Body := fun s =>
  match s.S.cs with
  | .awaitingEncapsulatedCommand =>
    if 8 < d.length then .error .dataStageLength else .ok (finishEncap d.length (storeEncap d s))
  | .awaitingLineCoding => if d.length ≠ 7 then .error .dataStageLength else .ok (storeLineCoding d s)
  | .awaitingZeroLengthAck => .ok ((sendZeroLengthStatus s).setCs .idle)
  | .idle => .ok s

/-- ON_DATA_STAGE_COMPLETE (R121), dispatched from `T.dsLatch` (spec/46_transport_host.md R201). -/
def execOnDataStageComplete (s : State) : Out :=
  onEvent s.T.dsLatch .noDataStage s fun d s => completeDataStage d { s with T := { s.T with dsLatch := none } }

end Sys2Proof.Machine
end

