-- ==== Sys2Proof/Machine/HostEnv.lean ====
section
/-! DEFINITION. The host and bus operations of agent ENV (spec/46_transport_host.md R204-R211): they change only `T` and `H`. -/

namespace Sys2Proof.Machine

/-- HOST_SETUP (R204): no guard; it ends any control transfer in progress. -/
def execHostSetup (p : Setup) (s : State) : Out :=
  asEnvAlways s { s with T := { s.T with setupLatch := some p, ep0Req := none, dsLatch := none } }

/-- BUS_RESET (R205): no guard; `T.log`, `H` and the block state are unchanged. -/
def execBusReset (s : State) : Out :=
  asEnvAlways s
    { s with
      T :=
        { s.T with
          rxArmed := true
          rxLatch := none
          setupLatch := none
          ep0Req := none
          dsLatch := none
          bulkInQ := []
          intInQ := []
          bulkInAcked := 0 } }

/-- R206: `T.ep0Req = some n`, `T.dsLatch = none` and `len(d) = n`. -/
def dataOutGuard (d : List Byte) (s : State) : Bool := s.T.ep0Req == some d.length && s.T.dsLatch == none

/-- HOST_DATA_OUT (R206). -/
def execHostDataOut (d : List Byte) (s : State) : Out :=
  asEnv s (dataOutGuard d s) .dataStageNotRequested { s with T := { s.T with dsLatch := some d, ep0Req := none } }

/-- R208: the endpoint is armed, no packet waits, and the packet fits. -/
def bulkOutGuard (d : List Byte) (s : State) : Bool :=
  s.T.rxArmed && s.T.rxLatch == none && decide (d.length ≤ outCapacity s)

/-- HOST_BULK_OUT (R208). -/
def execHostBulkOut (d : List Byte) (s : State) : Out :=
  asEnv s (bulkOutGuard d s) .outEndpointHeld { s with T := { s.T with rxArmed := false, rxLatch := some d } }

/-- R207: the head of the queue goes to the host. -/
def ackBulkIn (s : State) : State :=
  { s with
    T := { s.T with bulkInQ := s.T.bulkInQ.tail, bulkInAcked := s.T.bulkInAcked + 1 }
    H := { s.H with bulkIn := s.H.bulkIn ++ s.T.bulkInQ.take 1 } }

/-- HOST_ACK_BULK_IN (R207). -/
def execHostAckBulkIn (s : State) : Out := asEnv s (!s.T.bulkInQ.isEmpty) .bulkInQueueEmpty (ackBulkIn s)

/-- R209: the head of the queue goes to the host; no completion event. -/
def ackIntIn (s : State) : State :=
  { s with
    T := { s.T with intInQ := s.T.intInQ.tail }
    H := { s.H with notif := s.H.notif ++ s.T.intInQ.take 1 } }

/-- HOST_ACK_INT_IN (R209). -/
def execHostAckIntIn (s : State) : Out := asEnv s (!s.T.intInQ.isEmpty) .intInQueueEmpty (ackIntIn s)

end Sys2Proof.Machine
end

