-- ==== Sys2Proof/Machine/Rx.lean ====
section
/-! DEFINITION. The RX path (spec/42_rx_path.md): ON_PACKET_RECEIVED, READ with its hold and its completion step, HAS_DATA, DISCARD. -/

namespace Sys2Proof.Machine

/-- R141: the part of READ that runs with a frame pending: take a byte, and on the last one release the endpoint. -/
def readTake (s : State) : State :=
  let b := s.S.mem.byte .rxData s.S.rxCur
  let s1 : State := { s with S := { s.S with rxCur := s.S.rxCur + 1 } }
  let s2 := if s1.S.rxCur = s1.S.rxLen then rearmReceive { s1 with S := { s1.S with rxPend := false } } else s1
  s2.returning (.byte b)

/-- R141: READ. With no frame pending a suspendable caller is held, any other raises BLOCKING_DEADLOCK. -/
def readBody (ctx : Ctx) : Body := fun s =>
  if s.S.rxPend then .ok (readTake s)
  else if nonSuspendable ctx s then .error .blockingDeadlock
  else .ok (s.setMain .heldRead)

/-- READ (R141). -/
def execRead (ctx : Ctx) (s : State) : Out := asApp ctx s (requireInit (readBody ctx))

/-- HAS_DATA (R142). -/
def execHasData (ctx : Ctx) (s : State) : Out := asApp ctx s (pureRead fun s => .bool s.S.rxPend)

/-- R143: forget the frame and re-arm, always: also while a packet that has landed still waits in `T.rxLatch` (Log 24). -/
def discardFrame (s : State) : State := (rearmReceive { s with S := { s.S with rxPend := false } }).returning .nothing

/-- DISCARD (R143). -/
def execDiscard (ctx : Ctx) (s : State) : Out := asApp ctx s (requireInit fun s => .ok (discardFrame s))

/-- R140: the frame a non-empty packet becomes. The endpoint is held under it ("endpoint stays held (T.rxArmed = false)"; R202, R73), also
where a DISCARD re-armed it while the packet waited (Log 24, DEDUCED). -/
def storeFrame (d : List Byte) (s : State) : State :=
  { s with
    S := { s.S with mem := s.S.mem.write .rxData 0 d, rxLen := d.length, rxCur := 0, rxPend := true }
    T := { s.T with rxArmed := false } }

/-- R140: onPacketReceived on the packet taken from the latch. -/
def receivePacket (d : List Byte) : Body := fun s =>
  if s.cfg.rxBufSize < d.length then .error .rxOversize
  else if d.length = 0 then .ok (rearmReceive s)
  else .ok (storeFrame d s)

/-- ON_PACKET_RECEIVED (R140), dispatched from `T.rxLatch` (spec/46_transport_host.md R202). -/
def execOnPacketReceived (s : State) : Out :=
  onEvent s.T.rxLatch .noPacket s fun d s => receivePacket d { s with T := { s.T with rxLatch := none } }

end Sys2Proof.Machine
end

