-- ==== Sys2Proof/Machine/Tx.lean ====
section
/-! DEFINITION. The TX path (spec/43_tx_path.md): the helpers stage, flushCore and implicitFlush, the write operations with
WRITE_BLOCKING's hold and completion step, FLUSH, ON_TRANSMIT_COMPLETE and the two queries. -/

namespace Sys2Proof.Machine

/-- R150: `stage(b)`, lossy when the buffer is full. -/
def stage (b : Byte) (s : State) : State :=
  { s with
    S :=
      { s.S with
        mem := s.S.mem.write .txData (stageOffset s) [b]
        txFill := if s.S.txFill < s.cfg.txBufSize then s.S.txFill + 1 else s.S.txFill } }

/-- R153: after an accepted packet of `n` bytes, the rest shifted to the front and one more packet in flight. -/
def shiftStaged (n : Nat) (s : State) : State :=
  { s with
    S :=
      { s.S with
        mem := s.S.mem.write .txData 0 (s.S.mem.read .txData n (s.S.txFill - n))
        txFill := s.S.txFill - n
        txInflight := s.S.txInflight + 1 } }

/-- R153: `flushCore()`: hand at most one packet to the transport. -/
def flushCore (s : State) : State :=
  if s.S.txFill = 0 then s
  else
    match enqueueTransmit .bulkIn (s.S.mem.read .txData 0 (flushLength s)) .auto s with
    | (true, t) => shiftStaged (flushLength s) t
    | (false, t) => t

/-- R152: `implicitFlush()`. -/
def implicitFlush (s : State) : State := if flushesImplicitly s then flushCore s else s

/-- AVAILABLE_SPACE (R151). -/
def execAvailableSpace (ctx : Ctx) (s : State) : Out := asApp ctx s (pureRead fun s => .nat (availableSpace s))

/-- R154: the part of WRITE_BLOCKING that runs with room in the buffer. -/
def writeStaged (b : Byte) (s : State) : State := (implicitFlush (stage b s)).returning .nothing

/-- R154: WRITE_BLOCKING. On a full buffer a suspendable caller is held, any other raises BLOCKING_DEADLOCK. -/
def writeBlockingBody (ctx : Ctx) (b : Byte) : Body := fun s =>
  if txHasRoom s then .ok (writeStaged b s)
  else if nonSuspendable ctx s then .error .blockingDeadlock
  else .ok (s.setMain (.heldWrite b))

/-- WRITE_BLOCKING (R154). -/
def execWriteBlocking (ctx : Ctx) (b : Byte) (s : State) : Out := asApp ctx s (requireInit (writeBlockingBody ctx b))

/-- WRITE_FAST (R155): stages, never flushes. -/
def execWriteFast (ctx : Ctx) (b : Byte) (s : State) : Out :=
  asApp ctx s (requireInit fun s => .ok ((stage b s).returning .nothing))

/-- FLUSH (R156). -/
def execFlush (ctx : Ctx) (s : State) : Out := asApp ctx s (requireInit fun s => .ok ((flushCore s).returning .nothing))

/-- R157: a block's first `blockLength` bytes after the staged ones. -/
def stageBlock (bs : List Byte) (s : State) : State :=
  { s with
    S :=
      { s.S with
        mem := s.S.mem.write .txData s.S.txFill (bs.take (blockLength s bs))
        txFill := s.S.txFill + blockLength s bs } }

/-- R157: WRITE_BLOCK: false when the endpoint is busy, else stage, flush and true. -/
def writeBlockRun (bs : List Byte) (s : State) : State :=
  if endpointFree .bulkIn s then (flushCore (stageBlock bs s.drawn)).returning (.bool true)
  else s.drawn.returning (.bool false)

/-- WRITE_BLOCK (R157). -/
def execWriteBlock (ctx : Ctx) (bs : List Byte) (s : State) : Out :=
  asApp ctx s (requireInit fun s => .ok (writeBlockRun bs s))

/-- IS_EMPTY (R159). -/
def execIsEmpty (ctx : Ctx) (s : State) : Out := asApp ctx s (pureRead fun s => .bool (txEmpty s))

/-- R158: one packet less in flight, saturating at 0. -/
def completeOne (s : State) : State := { s with S := { s.S with txInflight := s.S.txInflight - 1 } }

/-- ON_TRANSMIT_COMPLETE (R158), dispatched while `T.bulkInAcked > 0` (spec/46_transport_host.md R203). -/
def execOnTransmitComplete (s : State) : Out :=
  onEvent (if 0 < s.T.bulkInAcked then some () else none) .noAcknowledgement s fun _ s =>
    .ok (flushCore (completeOne { s with T := { s.T with bulkInAcked := s.T.bulkInAcked - 1 } }))

end Sys2Proof.Machine
end

