-- ==== Sys2Proof/Machine/InitContext.lean ====
section
/-! DEFINITION. Initialization, the three main-context operations, and the completion step of a held request
(spec/45_initialize_context.md). -/

namespace Sys2Proof.Machine

/-- R180: the fields INITIALIZE writes, and no other. From interrupt context `tx.fill <- 0` also makes the condition of a held
WRITE_BLOCKING true, a release R154 and R262 do not list (Log 25, DEDUCED). -/
def initializedState (s : State) : State :=
  { s with
    S :=
      { s.S with
        mem := s.S.mem.setArea .lc lineCodingDefault
        carrierDte := false
        carrierAct := false
        conn := false
        brk := 0
        rxPend := false
        txFill := 0
        txInflight := 0
        cs := .idle
        init := true } }

/-- INITIALIZE (R180): admitted before the first one too (R221). -/
def execInitialize (ctx : Ctx) (s : State) : Out := asApp ctx s fun s => .ok ((initializedState s).returning .nothing)

/-- The state with another interrupt mask. -/
def State.setMasked (v : Bool) (s : State) : State := { s with C := { s.C with masked := v } }

/-- MASK_IRQ (R181). -/
def execMaskIrq (s : State) : Out := asMain s fun s => .ok (s.setMasked true)

/-- UNMASK_IRQ (R182). -/
def execUnmaskIrq (s : State) : Out := asMain s fun s => .ok (s.setMasked false)

/-- POLL (R183). -/
def execPoll (s : State) : Out := asMain s fun s => .ok (s.setMain .polling)

/-- MAIN RESUME (R185, spec/30_encoding.md R99, spec/60_exceptions.md R226): the completion step of the held request, admitted once
its condition holds; it runs the rest of the operation and sets `C.main <- ready`. -/
def resumeMain (s : State) : Out :=
  whileRunning s
    (match s.C.main with
    | .ready => .refused (.notAdmitted .nothingHeld)
    | .polling => .refused (.notAdmitted .nothingHeld)
    | .heldRead => if s.S.rxPend then .next (readTake (s.setMain .ready)) else .refused (.notAdmitted .conditionFalse)
    | .heldWrite b =>
      if txHasRoom s then .next (writeStaged b (s.setMain .ready)) else .refused (.notAdmitted .conditionFalse))

end Sys2Proof.Machine
end

