-- ==== Sys2Proof/Machine/Notify.lean ====
section
/-! DEFINITION. The SERIAL_STATE notification and the application's line-state reads (spec/44_notification.md). -/

namespace Sys2Proof.Machine

/-- R171: hand the notification to the interrupt endpoint; false when it is busy. -/
def notifySerialState (st : Byte) (s : State) : State :=
  match enqueueTransmit .intIn (ssPacket st) .auto s with
  | (accepted, t) => t.returning (.bool accepted)

/-- SEND_SERIAL_STATE (R171). -/
def execSendSerialState (ctx : Ctx) (st : Byte) (s : State) : Out :=
  asApp ctx s (requireInit fun s => .ok (notifySerialState st s))

/-- GET_LINE_CODING_APP (R172). -/
def execGetLineCodingApp (ctx : Ctx) (s : State) : Out := asApp ctx s (pureRead fun s => .bytes (s.S.mem.read .lc 0 7))

/-- GET_CARRIER (R173). -/
def execGetCarrier (ctx : Ctx) (s : State) : Out := asApp ctx s (pureRead fun s => .carrier s.S.carrierDte s.S.carrierAct)

/-- GET_BREAK (R174). -/
def execGetBreak (ctx : Ctx) (s : State) : Out := asApp ctx s (pureRead fun s => .word s.S.brk)

/-- IS_CONNECTED (R175). -/
def execIsConnected (ctx : Ctx) (s : State) : Out := asApp ctx s (pureRead fun s => .bool s.S.conn)

end Sys2Proof.Machine
end

