-- ==== Sys2Proof/Machine/Dispatch.lean ====
section
/-! DEFINITION. The meaning of every operation: one arm per row of spec/opcode_table.json, each one call of its own definition. -/

namespace Sys2Proof.Machine

def exec (i : Instr) (s : State) : Host.Outcome State Fault Refusal :=
  match i with
  -- RX path
  | .read ctx => Sys2Proof.Machine.execRead ctx s
  | .hasData ctx => Sys2Proof.Machine.execHasData ctx s
  | .discard ctx => Sys2Proof.Machine.execDiscard ctx s
  -- TX path
  | .availableSpace ctx => Sys2Proof.Machine.execAvailableSpace ctx s
  | .writeBlocking ctx b => Sys2Proof.Machine.execWriteBlocking ctx b s
  | .writeFast ctx b => Sys2Proof.Machine.execWriteFast ctx b s
  | .writeBlock ctx bs => Sys2Proof.Machine.execWriteBlock ctx bs s
  | .flush ctx => Sys2Proof.Machine.execFlush ctx s
  | .isEmpty ctx => Sys2Proof.Machine.execIsEmpty ctx s
  -- notification and line-state reads
  | .sendSerialState ctx st => Sys2Proof.Machine.execSendSerialState ctx st s
  | .getLineCodingApp ctx => Sys2Proof.Machine.execGetLineCodingApp ctx s
  | .getCarrier ctx => Sys2Proof.Machine.execGetCarrier ctx s
  | .getBreak ctx => Sys2Proof.Machine.execGetBreak ctx s
  | .isConnected ctx => Sys2Proof.Machine.execIsConnected ctx s
  -- initialization
  | .initializeBlock ctx => Sys2Proof.Machine.execInitialize ctx s
  -- transport events
  | .onSetupReceived => Sys2Proof.Machine.execOnSetupReceived s
  | .onDataStageComplete => Sys2Proof.Machine.execOnDataStageComplete s
  | .onPacketReceived => Sys2Proof.Machine.execOnPacketReceived s
  | .onTransmitComplete => Sys2Proof.Machine.execOnTransmitComplete s
  -- execution context
  | .maskIrq => Sys2Proof.Machine.execMaskIrq s
  | .unmaskIrq => Sys2Proof.Machine.execUnmaskIrq s
  | .poll => Sys2Proof.Machine.execPoll s
  -- host and bus
  | .busReset => Sys2Proof.Machine.execBusReset s
  | .hostSetup p => Sys2Proof.Machine.execHostSetup p s
  | .hostDataOut d => Sys2Proof.Machine.execHostDataOut d s
  | .hostBulkOut d => Sys2Proof.Machine.execHostBulkOut d s
  | .hostAckBulkIn => Sys2Proof.Machine.execHostAckBulkIn s
  | .hostAckIntIn => Sys2Proof.Machine.execHostAckIntIn s
  -- the requests inside a SETUP packet
  | .sendEncapsulatedCommand r => Sys2Proof.Machine.execSendEncapsulatedCommand r s
  | .getEncapsulatedCommand r => Sys2Proof.Machine.execGetEncapsulatedCommand r s
  | .setLineCoding r => Sys2Proof.Machine.execSetLineCoding r s
  | .getLineCoding r => Sys2Proof.Machine.execGetLineCoding r s
  | .setControlLineState r => Sys2Proof.Machine.execSetControlLineState r s
  | .sendBreak r => Sys2Proof.Machine.execSendBreak r s
  | .ctrlOther p => Sys2Proof.Machine.execCtrlOther p s

end Sys2Proof.Machine
end

