-- ==== Sys2Proof/Machine/Fetch.lean ====
section
/-! DEFINITION. What the next turn of the schedule asks for: the decoder's refusals (spec/60_exceptions.md R223, R229), BAD_CONFIG
(R224), the pseudo-operations and the encoding of program lines (spec/30_encoding.md R99-R101), and the state in which a table
word is the very next turn (Log 14, 15). -/

namespace Sys2Proof.Machine

/-- What a step is to do. -/
inductive Fetched where
  /-- run the decoded operation on the state with the turn taken -/
  | run (i : Instr) (s : State)
  /-- run the completion step of the held request -/
  | resume (s : State)
  /-- the step is over -/
  | done (o : Host.Outcome State Fault Refusal)
deriving Repr

/-- The state with the head of its schedule taken. -/
def State.popTurn (s : State) : State := { s with sched := s.sched.tail }

/-- R223: a refused word sets `S.refused` and changes nothing else; the run continues. -/
def refuseWord (s : State) : State := { s with S := { s.S with refused := true } }

/-- The next turn: a bad parameter set has no run (R224); a set fault mark stops every agent (R232); a word the decoder rejects is
refused, not executed (R223). -/
def fetch (s : State) : Fetched :=
  if s.cfg.valid then
    match s.S.fault with
    | some r => .done (.fault (.stopped r))
    | none =>
      match s.sched with
      | [] => .done (.refused .noRequest)
      | .resume :: _ => .resume s.popTurn
      | .request a bs :: _ =>
        match decode a bs with
        | .ok (i, _) => .run i s.popTurn
        | .error _ => .done (.next (refuseWord s.popTurn))
  else .done (.refused .badConfig)

/-! ### Program lines -/

/-- R99, R101: the turn of an operation: its agent and its bytes. -/
def turnOf (i : Instr) : Turn := .request i.agent (encode i)

/-- R100: `CTRL_WRITE p, d`. -/
def ctrlWrite (p : Setup) (d : List Byte) : List Turn :=
  [turnOf (.hostSetup p), turnOf .onSetupReceived, turnOf (.hostDataOut d), turnOf .onDataStageComplete]

/-- R100: `CTRL_NODATA p`. -/
def ctrlNoData (p : Setup) : List Turn := [turnOf (.hostSetup p), turnOf .onSetupReceived]

/-- R100: `HOST_OUT d`. -/
def hostOut (d : List Byte) : List Turn := [turnOf (.hostBulkOut d), turnOf .onPacketReceived]

/-- The state with turns put before the rest of its schedule. -/
def State.present (ts : List Turn) (s : State) : State := { s with sched := ts ++ s.sched }

/-! ### Making one operation the next step -/

/-- The least change that lets IRQ step (R226): unmask in INTERRUPT mode, poll in POLLED mode. -/
def openIrq (s : State) : State :=
  if irqOpen s then s
  else
    match s.cfg.transportMode with
    | .interrupt => s.setMasked false
    | .polled => s.setMain .polling

/-- The least change that lets the agent of an operation step (R226). -/
def openAgent (a : Agent) (s : State) : State :=
  match a with
  | .main => if mainFree s then s else s.setMain .ready
  | .irq => openIrq s
  | .env => s

/-- The input an operation takes from the transport, supplied where it is missing: a latch of zeros for an event (R200-R203), and
what an ENV guard asks for (R206-R209). -/
def supplyInput (i : Instr) (s : State) : State :=
  match i with
  | .onSetupReceived => { s with T := { s.T with setupLatch := some (s.T.setupLatch.getD ⟨0, 0, 0, 0, 0⟩) } }
  | .onDataStageComplete => { s with T := { s.T with dsLatch := some (s.T.dsLatch.getD []) } }
  | .onPacketReceived => { s with T := { s.T with rxLatch := some (s.T.rxLatch.getD []) } }
  | .onTransmitComplete => { s with T := { s.T with bulkInAcked := max s.T.bulkInAcked 1 } }
  | .hostDataOut d => { s with T := { s.T with ep0Req := some d.length, dsLatch := none } }
  | .hostBulkOut _ => { s with T := { s.T with rxArmed := true, rxLatch := none } }
  | .hostAckBulkIn => if s.T.bulkInQ.isEmpty then { s with T := { s.T with bulkInQ := [[0]] } } else s
  | .hostAckIntIn => if s.T.intInQ.isEmpty then { s with T := { s.T with intInQ := [ssPacket 0] } } else s
  | .read _ | .hasData _ | .discard _ => s
  | .availableSpace _ | .writeBlocking _ _ | .writeFast _ _ | .writeBlock _ _ | .flush _ | .isEmpty _ => s
  | .sendSerialState _ _ => s
  | .getLineCodingApp _ | .getCarrier _ | .getBreak _ | .isConnected _ | .initializeBlock _ => s
  | .maskIrq | .unmaskIrq | .poll | .busReset | .hostSetup _ => s
  | .sendEncapsulatedCommand _ | .getEncapsulatedCommand _ | .setLineCoding _ | .getLineCoding _ => s
  | .setControlLineState _ | .sendBreak _ | .ctrlOther _ => s

/-- A second-level word is run by ON_SETUP_RECEIVED from the SETUP latch (R112), in an initialized block (R110). -/
def presentRequest (i : Instr) (s : State) : State :=
  match takeSetup (encode i) with
  | some (p, _) =>
    State.present [turnOf .onSetupReceived]
      (openIrq { s with T := { s.T with setupLatch := some p }, S := { s.S with init := true } })
  | none => s

/-- The state in which operation `i`, presented as the bytes `bs`, is the very next step (Log 15). -/
def presentNext (i : Instr) (bs : List Byte) (s : State) : State :=
  if i.isRequest then presentRequest i s
  else State.present [.request i.agent bs] (openAgent i.agent (supplyInput i s))

end Sys2Proof.Machine
end

