-- ==== Sys2Proof/Machine/Step.lean ====
section
/-! DEFINITION. One step: take the next turn of the schedule, decode it, run it. -/

namespace Sys2Proof.Machine

/-- One step of the run the schedule describes (spec/30_encoding.md R99: "executed in the order written"). -/
def step (s : State) : Host.Outcome State Fault Refusal :=
  match fetch s with
  | .run i t => exec i t
  | .resume t => resumeMain t
  | .done o => o

/-- The state in which the instruction of a table word is the very next step (Log 14, 15); a word no decode level reads is presented by
MAIN as it stands. -/
def State.withFetchWord (s : State) (nbits w : Nat) : State :=
  match decodeTableWord nbits w with
  | some i => presentNext i (tableBytes nbits w) s
  | none => s.present [.request .main (tableBytes nbits w)]

end Sys2Proof.Machine
end

