-- ==== Sys2Proof/Safety.lean ====
section
/-! DEFINITION. The terms claims use: when an operation may step (spec/60_exceptions.md R226), the invariants (spec/10_state.md R46,
spec/43_tx_path.md R160, spec/46_transport_host.md R210), a run worth trusting (R223), and the byte streams of the two paths
(spec/42_rx_path.md R145, spec/43_tx_path.md R161). -/

namespace Sys2Proof.Machine

/-! ### When an operation may step -/

/-- R226: the context of an application-port request may step. -/
def ctxOpen (ctx : Ctx) (s : State) : Bool :=
  match ctx with
  | .main => mainFree s
  | .isr => irqOpen s

/-- An application-port request is admitted and the block is initialized. -/
abbrev AppReady (ctx : Ctx) (s : State) : Prop := s.S.fault = none ∧ ctxOpen ctx s = true ∧ s.S.init = true

/-- A transport event is admitted, but for its latch, and the block is initialized. -/
abbrev EventReady (s : State) : Prop := s.S.fault = none ∧ irqOpen s = true ∧ s.S.init = true

/-- The state an admitted request runs in: a MAIN request first sets `C.main <- ready` (R185). -/
def entered (ctx : Ctx) (s : State) : State :=
  match ctx with
  | .main => s.setMain .ready
  | .isr => s

/-- R226, R200-R209: the operation's agent may step and its own guard holds. -/
def admitted (i : Instr) (s : State) : Bool :=
  match i with
  | .read ctx | .hasData ctx | .discard ctx => ctxOpen ctx s
  | .availableSpace ctx | .writeBlocking ctx _ | .writeFast ctx _ | .writeBlock ctx _ | .flush ctx | .isEmpty ctx =>
    ctxOpen ctx s
  | .sendSerialState ctx _ => ctxOpen ctx s
  | .getLineCodingApp ctx | .getCarrier ctx | .getBreak ctx | .isConnected ctx => ctxOpen ctx s
  | .initializeBlock ctx => ctxOpen ctx s
  | .onSetupReceived => irqOpen s && s.T.setupLatch.isSome
  | .onDataStageComplete => irqOpen s && s.T.dsLatch.isSome
  | .onPacketReceived => irqOpen s && s.T.rxLatch.isSome
  | .onTransmitComplete => irqOpen s && decide (0 < s.T.bulkInAcked)
  | .maskIrq | .unmaskIrq | .poll => mainFree s
  | .busReset | .hostSetup _ => true
  | .hostDataOut d => s.T.ep0Req == some d.length && s.T.dsLatch == none
  | .hostBulkOut d => s.T.rxArmed && s.T.rxLatch == none && decide (d.length ≤ s.cfg.rxBufSize)
  | .hostAckBulkIn => !s.T.bulkInQ.isEmpty
  | .hostAckIntIn => !s.T.intInQ.isEmpty
  | .sendEncapsulatedCommand _ | .getEncapsulatedCommand _ | .setLineCoding _ | .getLineCoding _ => true
  | .setControlLineState _ | .sendBreak _ | .ctrlOther _ => true

/-- R221: the operations that fault while the block is not initialized: every application-port operation but INITIALIZE, and every
transport event. -/
def needsInit : Instr → Bool
  | .read _ | .hasData _ | .discard _ => true
  | .availableSpace _ | .writeBlocking _ _ | .writeFast _ _ | .writeBlock _ _ | .flush _ | .isEmpty _ => true
  | .sendSerialState _ _ => true
  | .getLineCodingApp _ | .getCarrier _ | .getBreak _ | .isConnected _ => true
  | .initializeBlock _ => false
  | .onSetupReceived | .onDataStageComplete | .onPacketReceived | .onTransmitComplete => true
  | .maskIrq | .unmaskIrq | .poll => false
  | .busReset | .hostSetup _ | .hostDataOut _ | .hostBulkOut _ | .hostAckBulkIn | .hostAckIntIn => false
  | .sendEncapsulatedCommand _ | .getEncapsulatedCommand _ | .setLineCoding _ | .getLineCoding _ => false
  | .setControlLineState _ | .sendBreak _ | .ctrlOther _ => false

/-- R111: a SETUP packet targets the CDC control or data interface: class type, interface recipient (bmRequestType 0x21 or 0xA1), and
`wIndex[7:0]` one of the two interface numbers. -/
abbrev TargetsCdc (c : Config) (p : Setup) : Prop :=
  p.bmRequestType &&& 0x7F#8 = 0x21#8 ∧
    (p.wIndex.extractLsb' 0 8 = c.commIf ∨ p.wIndex.extractLsb' 0 8 = c.dataIf)

/-- R190: the endpoint has room and the transport does not refuse. -/
abbrev EndpointAnswersFree (ep : InEndpoint) (s : State) : Prop :=
  (s.queue ep).length < ep.depth s.cfg ∧ (s.cfg.mayRefuse = true → Config.freeAnswer s.draws = true)

/-- R190: how many draws have been taken after one more free query. -/
def drawsAfterQuery (s : State) : Nat := if s.cfg.mayRefuse then s.draws + 1 else s.draws

/-- R223, R232: a state of a run a proof may rest on: no fault, no refused word. -/
abbrev Clean (s : State) : Prop := s.S.fault = none ∧ s.S.refused = false

/-! ### Steps and runs -/

/-- R99: the operation the next turn's bytes decode to. None: the turn resumes MAIN, or its word is refused, or there is no turn. -/
def nextOp (s : State) : Option Instr :=
  match s.sched with
  | .request a bs :: _ =>
    match decode a bs with
    | .ok (i, _) => some i
    | .error _ => none
  | .resume :: _ => none
  | [] => none

/-- R185: the next turn is MAIN RESUME. -/
def Resumes (s : State) : Prop := s.sched.head? = some .resume

/-- `n` steps lead from `s` to `t`, each from a state with `q`. -/
def RunsWhile (q : State → Prop) : Nat → State → State → Prop
  | 0, s, t => t = s
  | n + 1, s, t => q s ∧ ∃ u, step s = .next u ∧ RunsWhile q n u t

/-- R34: the next step neither completes a SetLineCoding data stage nor initializes. -/
abbrev KeepsLineCoding (s : State) : Prop :=
  (nextOp s = some .onDataStageComplete → s.S.cs ≠ .awaitingLineCoding) ∧ ∀ ctx, nextOp s ≠ some (.initializeBlock ctx)

/-! ### Invariants -/

/-- R46 (I1), (I2), (I4) with the capacities of R60 and the constraints of R224. -/
structure StateInv (s : State) : Prop where
  /-- R224 -/
  cfgValid : s.cfg.valid = true
  /-- R60: every area holds exactly its capacity -/
  memWf : s.S.mem.wf s.cfg = true
  /-- (I1) -/
  fillLe : s.S.txFill ≤ s.cfg.txBufSize
  /-- (I2) -/
  frame : s.S.rxPend = true → 1 ≤ s.S.rxLen ∧ s.S.rxLen ≤ s.cfg.rxBufSize ∧ s.S.rxCur < s.S.rxLen
  /-- (I4), bulk IN -/
  bulkDepth : s.T.bulkInQ.length ≤ s.cfg.bulkInDepth
  /-- (I4), interrupt IN -/
  intDepth : s.T.intInQ.length ≤ s.cfg.intInDepth

/-- R46 (I3): it holds until a BUS_RESET discards packets in flight (Log 18). -/
abbrev InflightBounded (s : State) : Prop := s.S.txInflight ≤ s.T.bulkInQ.length + s.T.bulkInAcked

/-- R73, R202, U5: under a pending frame the endpoint is held and no packet waits. It holds until a BUS_RESET re-arms the endpoint. -/
abbrev HeldWhilePending (s : State) : Prop := s.S.rxPend = true → s.T.rxArmed = false ∧ s.T.rxLatch = none

/-- R206, R208, R210: what the host's duties make true of the latches, so that no length fault is reachable. -/
structure ContractInv (s : State) : Prop where
  /-- R208: a landed packet fits the frame -/
  rxFits : ∀ d, s.T.rxLatch = some d → d.length ≤ s.cfg.rxBufSize
  /-- R42: a requested data stage has 0..8 bytes -/
  reqLe : ∀ n, s.T.ep0Req = some n → n ≤ 8
  /-- R113: an encapsulated command's data stage has at most 8 bytes -/
  encapFits : s.S.cs = .awaitingEncapsulatedCommand → ∀ d, s.T.dsLatch = some d → d.length ≤ 8
  /-- R204: a waiting SETUP packet ended the transfer before it -/
  setupFirst : s.T.setupLatch.isSome = true → s.T.dsLatch = none ∧ s.T.ep0Req = none
  /-- R115: a line coding's data stage is a request of 7 bytes -/
  lineReq : s.S.cs = .awaitingLineCoding → ∀ n, s.T.ep0Req = some n → n = 7
  /-- R115, R206: and brings 7 bytes -/
  lineFits : s.S.cs = .awaitingLineCoding → ∀ d, s.T.dsLatch = some d → d.length = 7

/-- R160, R197, R170: a bulk IN packet is short but never empty. -/
abbrev bulkPacketOk (c : Config) (p : List Byte) : Prop := 1 ≤ p.length ∧ p.length ≤ c.txPktMax ∧ p.length < c.bulkInMps

/-- R160, R195-R197: every packet handed off, queued or received by the host has a legal length, and so has every request logged. -/
structure PacketsOk (s : State) : Prop where
  bulkQueue : ∀ p ∈ s.T.bulkInQ, bulkPacketOk s.cfg p
  bulkHost : ∀ p ∈ s.H.bulkIn, bulkPacketOk s.cfg p
  bulkLog : ∀ p, LogEntry.bulkIn p ∈ s.T.log → bulkPacketOk s.cfg p
  intQueue : ∀ p ∈ s.T.intInQ, p.length = 10
  intHost : ∀ p ∈ s.H.notif, p.length = 10
  intLog : ∀ p, LogEntry.intIn p ∈ s.T.log → p.length = 10
  stageLog : ∀ n, LogEntry.dataStage n ∈ s.T.log → n ≤ 8
  ctrlLog : ∀ bs, LogEntry.ctrlIn bs ∈ s.T.log → bs.length ≤ 8

/-! ### Byte streams -/

/-- R161: the bytes on their way to the host: received, queued, staged. -/
def txStream (s : State) : List Byte :=
  s.H.bulkIn.flatten ++ s.T.bulkInQ.flatten ++ s.S.mem.read .txData 0 s.S.txFill

/-- R145: the unread bytes of the pending frame. -/
def rxUnread (s : State) : List Byte := s.S.mem.read .rxData s.S.rxCur (s.S.rxLen - s.S.rxCur)

/-- R145 (P-RX1): READs in a row from `s` to `t` that return exactly these bytes in this order. -/
def ReadsReturn (ctx : Ctx) : List Byte → State → State → Prop
  | [], s, t => t = s
  | b :: bs, s, t => ∃ u, exec (.read ctx) s = .next u ∧ u.ret = .byte b ∧ ReadsReturn ctx bs u t

end Sys2Proof.Machine
end

