-- ==== Sys2Proof/Certificates/Slice0/Obligations.lean ====
section
/-! DEFINITION. The statements for the provers. Every statement is over all states, so over all parameter sets (Log 1). Where a
statement names a state `{ entered ctx s with … }` it says the operation's whole effect and its whole frame: every part of the
state not named is unchanged. `entered` is the `C.main <- ready` of a MAIN step (spec/45_initialize_context.md R185).
A step runs an operation (`nextOp s = some i`; StepRunsTheDecodedOperation), resumes MAIN or refuses a word (`nextOp s = none`):
a statement about every step says what it says of all three. -/

open Sys2Proof Sys2Proof.Machine

/-! ### Encodings -/

/-- Words written out from spec/30_encoding.md R90-R92 and R101, one or more of each family, decode to the operation they stand for. -/
def Obligations.SampleWordsDecodeAsTheTableSays : Prop :=
  decode .irq [0x10, 0x01] = .ok (.read .isr, []) ∧
  decode .main [0x23, 0x00, 0x02, 0x00, 0x48, 0x49] = .ok (.writeBlock .main [0x48, 0x49], []) ∧
  decode .main [0x21, 0x00, 0x68] = .ok (.writeBlocking .main 0x68, []) ∧
  decode .main [0x30, 0x00, 0x03] = .ok (.sendSerialState .main 0x03, []) ∧
  decode .main [0x50, 0x00] = .ok (.initializeBlock .main, []) ∧
  decode .irq [0x83, 0x00] = .ok (.onTransmitComplete, []) ∧
  decode .main [0xC2, 0x00] = .ok (.poll, []) ∧
  decode .env [0xD0, 0x00, 0x21, 0x22, 0x03, 0x00, 0x00, 0x00, 0x00, 0x00] =
    .ok (.hostSetup ⟨0x21, 0x22, 0x0003, 0x0000, 0x0000⟩, []) ∧
  decode .env [0xD2, 0x00, 0x03, 0x00, 0x41, 0x42, 0x43] = .ok (.hostBulkOut [0x41, 0x42, 0x43], []) ∧
  decodeSetup Config.vectors ⟨0xA1, 0x21, 0x0000, 0x0000, 0x0007⟩ = .getLineCoding ⟨true, 0x0000, 0x0000, 0x0007⟩ ∧
  decodeSetup Config.vectors ⟨0x21, 0x99, 0x0000, 0x0000, 0x0000⟩ = .ctrlOther ⟨0x21, 0x99, 0x0000, 0x0000, 0x0000⟩

/-- Decode and encode agree on every well-formed operation of the first level, with every operand the encoding admits, whatever
bytes follow (spec/30_encoding.md section 2). -/
def Obligations.DecodeOfEncodeReturnsTheOperation : Prop :=
  ∀ (c : Config) (i : Instr) (rest : List Byte), i.isRequest = false → i.wf c = true →
    decode i.agent (encode i ++ rest) = .ok (i, rest)

/-- Decode and encode agree on every well-formed request of the second level, under every parameter set: the eight bytes are read
back as one SETUP packet, which is dispatched to that request with its operands. -/
def Obligations.RequestDecodeOfEncodeReturnsTheRequest : Prop :=
  ∀ (c : Config) (i : Instr) (rest : List Byte), i.isRequest = true → i.wf c = true →
    ∃ p, takeSetup (encode i ++ rest) = some (p, rest) ∧ decodeSetup c p = i

/-- The other direction: up to the bytes that follow it, an accepted line is the encoding of what it decodes to, and the operation is
well formed and belongs to the agent that issued it; and the same for the second level. Lines that differ only in the bytes that
follow do mean one operation: that is the model's choice (Log 13, DESIGN CHOICE). -/
def Obligations.DecodedBytesAreTheEncodingOfTheOperation : Prop :=
  (∀ (a : Agent) (bs : List Byte) (i : Instr) (rest : List Byte), decode a bs = .ok (i, rest) →
    i.agent = a ∧ i.isRequest = false ∧ (∀ c, i.wf c = true) ∧ encode i ++ rest = bs) ∧
  (∀ (c : Config) (p : Setup),
    (decodeSetup c p).isRequest = true ∧ (decodeSetup c p).wf c = true ∧ encode (decodeSetup c p) = p.bytes)

/-- The decoder's refusals in the order of spec/30_encoding.md section 2, with the unassigned codes and the payloads of sections 2 and 3:
reserved bits first, then an unassigned code, then the ctx bit of a non-application code, then the wrong agent, then a short
payload. Two names are the model's reading: WRONG_AGENT for an IRQ word with c = 0 (Log 11, DEDUCED), and RESERVED_BITS for c = 1
on a non-application code, where spec/93_implementation_defined.md U9 names WRONG_AGENT (Log 12, DEDUCED). -/
def Obligations.WordsAreRefusedInTheOrderOfTheRule : Prop :=
  ∀ (a : Agent) (lo hi : Byte) (rest : List Byte),
    (2 ≤ hi.toNat → decode a (lo :: hi :: rest) = .error .reservedBits) ∧
    (hi.toNat < 2 →
      (lo.toNat ≤ 0x0F ∨ (0x13 ≤ lo.toNat ∧ lo.toNat ≤ 0x1F) ∨ (0x26 ≤ lo.toNat ∧ lo.toNat ≤ 0x2F) ∨
        (0x31 ≤ lo.toNat ∧ lo.toNat ≤ 0x3F) ∨ (0x44 ≤ lo.toNat ∧ lo.toNat ≤ 0x4F) ∨
        (0x51 ≤ lo.toNat ∧ lo.toNat ≤ 0x7F) ∨ (0x84 ≤ lo.toNat ∧ lo.toNat ≤ 0xBF) ∨
        (0xC3 ≤ lo.toNat ∧ lo.toNat ≤ 0xC7) ∨ (0xC9 ≤ lo.toNat ∧ lo.toNat ≤ 0xCF) ∨ 0xD5 ≤ lo.toNat) →
      decode a (lo :: hi :: rest) = .error .unassignedOp) ∧
    (hi = 1 →
      ((0x80 ≤ lo.toNat ∧ lo.toNat ≤ 0x83) ∨ (0xC0 ≤ lo.toNat ∧ lo.toNat ≤ 0xC2) ∨ lo = 0xC8 ∨
        (0xD0 ≤ lo.toNat ∧ lo.toNat ≤ 0xD4)) →
      decode a (lo :: hi :: rest) = .error .reservedBits) ∧
    (((0x10 ≤ lo.toNat ∧ lo.toNat ≤ 0x12) ∨ (0x20 ≤ lo.toNat ∧ lo.toNat ≤ 0x25) ∨ lo = 0x30 ∨
        (0x40 ≤ lo.toNat ∧ lo.toNat ≤ 0x43) ∨ lo = 0x50) →
      ((hi = 0 ∧ a ≠ .main) ∨ (hi = 1 ∧ a ≠ .irq)) → decode a (lo :: hi :: rest) = .error .wrongAgent) ∧
    (hi = 0 →
      ((0x80 ≤ lo.toNat ∧ lo.toNat ≤ 0x83 ∧ a ≠ .irq) ∨ (0xC0 ≤ lo.toNat ∧ lo.toNat ≤ 0xC2 ∧ a ≠ .main) ∨
        (lo = 0xC8 ∧ a ≠ .env) ∨ (0xD0 ≤ lo.toNat ∧ lo.toNat ≤ 0xD4 ∧ a ≠ .env)) →
      decode a (lo :: hi :: rest) = .error .wrongAgent) ∧
    (((hi = 0 ∧ a = .main) ∨ (hi = 1 ∧ a = .irq)) → (lo = 0x21 ∨ lo = 0x22 ∨ lo = 0x30) → rest = [] →
      decode a (lo :: hi :: rest) = .error .badOperand) ∧
    (((((hi = 0 ∧ a = .main) ∨ (hi = 1 ∧ a = .irq)) ∧ lo = 0x23) ∨
        (hi = 0 ∧ a = .env ∧ (lo = 0xD1 ∨ lo = 0xD2))) →
      (rest.length < 2 ∨ ∃ l h r, rest = l :: h :: r ∧ r.length < l.toNat + 256 * h.toNat) →
      decode a (lo :: hi :: rest) = .error .badOperand) ∧
    (hi = 0 → a = .env → lo = 0xD0 → rest.length < 8 → decode a (lo :: hi :: rest) = .error .badOperand)

/-- After a passing target check the request code alone selects the rule (spec/30_encoding.md section 1, spec/41_control_requests.md
section 1); a failed one stalls (spec/92_eei_decisions.md D7); and the SETUP16 rows but the default are the packets whose first
two bytes, masked with 0xFF7F, are a row's match (spec/30_encoding.md section 2, D1) and whose wIndex names a CDC interface. -/
def Obligations.RequestCodeSelectsExactlyOneRule : Prop :=
  ∀ (c : Config) (p : Setup),
    (TargetsCdc c p →
      (p.bRequest = 0x00 → decodeSetup c p = .sendEncapsulatedCommand p.request) ∧
      (p.bRequest = 0x01 → decodeSetup c p = .getEncapsulatedCommand p.request) ∧
      (p.bRequest = 0x20 → decodeSetup c p = .setLineCoding p.request) ∧
      (p.bRequest = 0x21 → decodeSetup c p = .getLineCoding p.request) ∧
      (p.bRequest = 0x22 → decodeSetup c p = .setControlLineState p.request) ∧
      (p.bRequest = 0x23 → decodeSetup c p = .sendBreak p.request) ∧
      ((0x02 ≤ p.bRequest.toNat ∧ p.bRequest.toNat ≤ 0x1F) ∨ 0x24 ≤ p.bRequest.toNat → decodeSetup c p = .ctrlOther p)) ∧
    (¬ TargetsCdc c p → decodeSetup c p = .ctrlOther p) ∧
    ((∃ n ∈ [0x0021#16, 0x0121#16, 0x2021#16, 0x2121#16, 0x2221#16, 0x2321#16],
        u16le p.bmRequestType p.bRequest &&& 0xFF7F#16 = n) ∧
        (p.wIndex.extractLsb' 0 8 = c.commIf ∨ p.wIndex.extractLsb' 0 8 = c.dataIf) ↔
      decodeSetup c p ≠ .ctrlOther p)

/-! ### The step -/

/-- One step takes the next turn and, when its bytes decode, is exec of that operation with the turn gone (spec/30_encoding.md section 5).
That the turns are a list in State is the model's choice (Log 4, DESIGN CHOICE), and so is that a line with bytes after its payload
(`tail`) is run (Log 13, DESIGN CHOICE, unsafe for such lines). -/
def Obligations.StepRunsTheDecodedOperation : Prop :=
  ∀ (s : State) (a : Agent) (bs : List Byte) (rest : List Turn) (i : Instr) (tail : List Byte),
    s.cfg.valid = true → s.S.fault = none → s.sched = .request a bs :: rest → decode a bs = .ok (i, tail) →
    step s = exec i { s with sched := rest }

/-- A word the decoder rejects sets `S.refused` and changes nothing else, and the run goes on (spec/60_exceptions.md section 1). That this
holds for a word of an agent that may not step is the model's reading of spec/60_exceptions.md section 2 (Log 7, DEDUCED, unsafe in
that case), and that a polling MAIN stays polling is another (Log 21, DEDUCED, unsafe in that case). -/
def Obligations.RejectedWordSetsOnlyTheRefusedMark : Prop :=
  ∀ (s : State) (a : Agent) (bs : List Byte) (rest : List Turn) (e : DecodeRefusal),
    s.cfg.valid = true → s.S.fault = none → s.sched = .request a bs :: rest → decode a bs = .error e →
    step s = .next { s with sched := rest, S := { s.S with refused := true } }

/-- MAIN RESUME runs the rest of the held request, exactly as that request would run from a ready MAIN, once its condition holds; while
it does not, and with nothing held, there is no such step (spec/45_initialize_context.md section 3). The model's own part: a step that
cannot be taken is answered by a refusal with a named guard (Log 5, DESIGN CHOICE), a held write keeps its byte (Log 16, DEDUCED),
and neither the mask nor `init` is tested again (Log 22, DEDUCED). -/
def Obligations.ResumeCompletesTheHeldRequest : Prop :=
  ∀ (s : State) (rest : List Turn),
    s.cfg.valid = true → s.S.fault = none → s.S.init = true → s.sched = .resume :: rest →
    (s.C.main = .heldRead → s.S.rxPend = true →
      step s = exec (.read .main) { s with sched := rest, C := { s.C with main := .ready } }) ∧
    (s.C.main = .heldRead → s.S.rxPend = false → step s = .refused (.notAdmitted .conditionFalse)) ∧
    (∀ b, s.C.main = .heldWrite b → s.S.txFill < s.cfg.txBufSize →
      step s = exec (.writeBlocking .main b) { s with sched := rest, C := { s.C with main := .ready } }) ∧
    (∀ b, s.C.main = .heldWrite b → s.cfg.txBufSize ≤ s.S.txFill → step s = .refused (.notAdmitted .conditionFalse)) ∧
    (s.C.main = .ready ∨ s.C.main = .polling → step s = .refused (.notAdmitted .nothingHeld))

/-! ### RX path -/

/-- READ with a frame pending (spec/42_rx_path.md R141): it returns the byte at the cursor and advances the cursor; on the last byte it
also releases the frame and re-arms the endpoint. Nothing else changes. -/
def Obligations.ReadTakesTheByteAtTheCursor : Prop :=
  ∀ (ctx : Ctx) (s : State), AppReady ctx s → s.S.rxPend = true →
    (s.S.rxCur + 1 ≠ s.S.rxLen →
      exec (.read ctx) s =
        .next { entered ctx s with
          S := { s.S with rxCur := s.S.rxCur + 1 }
          ret := .byte (s.S.mem.byte .rxData s.S.rxCur) }) ∧
    (s.S.rxCur + 1 = s.S.rxLen →
      exec (.read ctx) s =
        .next { entered ctx s with
          S := { s.S with rxCur := s.S.rxCur + 1, rxPend := false }
          T := { s.T with rxArmed := true, log := s.T.log ++ [.rearm] }
          ret := .byte (s.S.mem.byte .rxData s.S.rxCur) })

/-- A blocking request whose condition is false (spec/42_rx_path.md R141, spec/43_tx_path.md R154, spec/60_exceptions.md R222): an
unmasked MAIN is held and nothing else changes; interrupt context or a masked MAIN faults with BLOCKING_DEADLOCK. -/
def Obligations.BlockedRequestHoldsOrFaults : Prop :=
  ∀ (s : State) (b : Byte),
    (s.S.rxPend = false →
      (AppReady .main s → s.C.masked = false →
        exec (.read .main) s = .next { s with C := { s.C with main := .heldRead } }) ∧
      (AppReady .main s → s.C.masked = true →
        exec (.read .main) s = .next { s with S := { s.S with fault := some .blockingDeadlock } }) ∧
      (AppReady .isr s → exec (.read .isr) s = .next { s with S := { s.S with fault := some .blockingDeadlock } })) ∧
    (s.cfg.txBufSize ≤ s.S.txFill →
      (AppReady .main s → s.C.masked = false →
        exec (.writeBlocking .main b) s = .next { s with C := { s.C with main := .heldWrite b } }) ∧
      (AppReady .main s → s.C.masked = true →
        exec (.writeBlocking .main b) s = .next { s with S := { s.S with fault := some .blockingDeadlock } }) ∧
      (AppReady .isr s →
        exec (.writeBlocking .isr b) s = .next { s with S := { s.S with fault := some .blockingDeadlock } }))

/-- The pure requests (spec/20_memory.md R68): HAS_DATA, AVAILABLE_SPACE, IS_EMPTY, GET_LINE_CODING_APP, GET_CARRIER, GET_BREAK and
IS_CONNECTED return their value and write nothing. (Of an `lc` shorter than 7 bytes, in no run, what there is: Log 10.) -/
def Obligations.PureRequestsReturnTheirValueAndWriteNothing : Prop :=
  ∀ (ctx : Ctx) (s : State), AppReady ctx s →
    exec (.hasData ctx) s = .next { entered ctx s with ret := .bool s.S.rxPend } ∧
    exec (.availableSpace ctx) s = .next { entered ctx s with ret := .nat (s.cfg.txBufSize - s.S.txFill) } ∧
    exec (.isEmpty ctx) s =
      .next { entered ctx s with ret := .bool (decide (s.S.txFill = 0 ∧ s.S.txInflight = 0)) } ∧
    exec (.getLineCodingApp ctx) s = .next { entered ctx s with ret := .bytes (s.S.mem.lc.take 7) } ∧
    exec (.getCarrier ctx) s = .next { entered ctx s with ret := .carrier s.S.carrierDte s.S.carrierAct } ∧
    exec (.getBreak ctx) s = .next { entered ctx s with ret := .word s.S.brk } ∧
    exec (.isConnected ctx) s = .next { entered ctx s with ret := .bool s.S.conn }

/-- DISCARD (spec/42_rx_path.md R143) clears the pending flag and re-arms, whether or not a frame was pending. -/
def Obligations.DiscardReleasesTheEndpoint : Prop :=
  ∀ (ctx : Ctx) (s : State), AppReady ctx s →
    exec (.discard ctx) s =
      .next { entered ctx s with
        S := { s.S with rxPend := false }
        T := { s.T with rxArmed := true, log := s.T.log ++ [.rearm] }
        ret := .nothing }

/-- ON_PACKET_RECEIVED of a packet of 1..RX_BUF_SIZE bytes (spec/42_rx_path.md R140, spec/46_transport_host.md R202): the packet is copied
to the front of `rx.data`, every other byte of memory is unchanged, the frame is pending from its first byte, and the endpoint
is held, also where a DISCARD re-armed it while the packet waited (Log 24, DEDUCED). -/
def Obligations.PacketBecomesThePendingFrame : Prop :=
  ∀ (s : State) (d : List Byte), EventReady s → s.T.rxLatch = some d → s.S.mem.wf s.cfg = true →
    1 ≤ d.length → d.length ≤ s.cfg.rxBufSize →
    ∃ t, exec .onPacketReceived s = .next t ∧
      (∀ k (hk : k < d.length), t.S.mem.byte .rxData k = d[k]) ∧
      (∀ a o, a ≠ .rxData ∨ d.length ≤ o → t.S.mem.byte a o = s.S.mem.byte a o) ∧
      t = { s with
        S := { s.S with mem := t.S.mem, rxLen := d.length, rxCur := 0, rxPend := true }
        T := { s.T with rxLatch := none, rxArmed := false } }

/-- ON_PACKET_RECEIVED of a zero-length packet only re-arms; one longer than RX_BUF_SIZE faults with RX_OVERSIZE and leaves the latch
(spec/42_rx_path.md R140). -/
def Obligations.EmptyAndOversizePackets : Prop :=
  ∀ (s : State) (d : List Byte), EventReady s → s.T.rxLatch = some d →
    (d = [] →
      exec .onPacketReceived s =
        .next { s with T := { s.T with rxLatch := none, rxArmed := true, log := s.T.log ++ [.rearm] } }) ∧
    (s.cfg.rxBufSize < d.length →
      exec .onPacketReceived s = .next { s with S := { s.S with fault := some .rxOversize } })

/-- Spec/42_rx_path.md R145 (P-RX1), from any point of a pending frame: as many READs as there are unread bytes return exactly those
bytes in offset order, then no frame is pending, and the endpoint was re-armed exactly once. -/
def Obligations.PendingFrameIsReadInOrderAndReArmedOnce : Prop :=
  ∀ (ctx : Ctx) (s : State), AppReady ctx s → StateInv s → s.S.rxPend = true →
    (rxUnread s).length = s.S.rxLen - s.S.rxCur ∧
    (∀ k (hk : k < (rxUnread s).length), (rxUnread s)[k] = s.S.mem.byte .rxData (s.S.rxCur + k)) ∧
    ∃ t, ReadsReturn ctx (rxUnread s) s t ∧ t.S.rxPend = false ∧ t.T.rxArmed = true ∧
      t.T.log = s.T.log ++ [.rearm] ∧ t.S.mem = s.S.mem ∧ t.S.rxLen = s.S.rxLen ∧ t.S.rxCur = s.S.rxLen

/-- The flow control of spec/42_rx_path.md section 3: a held OUT endpoint is armed only by READ of a frame's last byte (at once or when
resumed), DISCARD, a zero-length packet or BUS_RESET; only HOST_BULK_OUT disarms an armed one, and the delivery of a packet that a
DISCARD re-armed behind (Log 24, DEDUCED). And the receive order of spec/20_memory.md section 4: over every step but BUS_RESET a frame
pends only under a held endpoint with no packet waiting, so a packet lands, and is delivered, only when no frame is pending. -/
def Obligations.OutEndpointIsArmedOnlyByARelease : Prop :=
  (∀ (i : Instr) (s t : State), exec i s = .next t →
    (s.T.rxArmed = false → t.T.rxArmed = true →
      (∃ ctx, i = .read ctx ∧ s.S.rxPend = true ∧ s.S.rxCur + 1 = s.S.rxLen) ∨ (∃ ctx, i = .discard ctx) ∨
        (i = .onPacketReceived ∧ s.T.rxLatch = some []) ∨ i = .busReset) ∧
    (s.T.rxArmed = true → t.T.rxArmed = false →
      (∃ d, i = .hostBulkOut d) ∨ (i = .onPacketReceived ∧ ∃ d, s.T.rxLatch = some d ∧ d ≠ []))) ∧
  (∀ s t : State, step s = .next t → nextOp s = none →
    (s.T.rxArmed = false → t.T.rxArmed = true →
      Resumes s ∧ s.C.main = .heldRead ∧ s.S.rxPend = true ∧ s.S.rxCur + 1 = s.S.rxLen) ∧
    (s.T.rxArmed = true → t.T.rxArmed = true)) ∧
  (∀ s t : State, HeldWhilePending s → step s = .next t → nextOp s ≠ some .busReset → HeldWhilePending t) ∧
  (∀ s t : State, HeldWhilePending s →
    (∀ d, exec (.hostBulkOut d) s = .next t → s.S.rxPend = false) ∧
    (exec .onPacketReceived s = .next t → s.S.rxPend = false))

/-! ### TX path -/

/-- Spec/43_tx_path.md R150 and R152. Staging puts the byte at offset `tx.fill`, or in the last slot when the buffer is full, and
changes no other byte; the fill never exceeds the capacity. The implicit flush is a flush in IMMEDIATE mode or on a full
buffer, and nothing otherwise. -/
def Obligations.StageAndImplicitFlush : Prop :=
  ∀ (b : Byte) (s : State), s.S.mem.wf s.cfg = true → 1 ≤ s.cfg.txBufSize →
    (s.S.txFill < s.cfg.txBufSize →
      (stage b s).S.mem.byte .txData s.S.txFill = b ∧ (stage b s).S.txFill = s.S.txFill + 1 ∧
        ∀ a o, a ≠ .txData ∨ o ≠ s.S.txFill → (stage b s).S.mem.byte a o = s.S.mem.byte a o) ∧
    (s.cfg.txBufSize ≤ s.S.txFill →
      (stage b s).S.mem.byte .txData (s.cfg.txBufSize - 1) = b ∧ (stage b s).S.txFill = s.S.txFill ∧
        ∀ a o, a ≠ .txData ∨ o ≠ s.cfg.txBufSize - 1 → (stage b s).S.mem.byte a o = s.S.mem.byte a o) ∧
    (s.S.txFill ≤ s.cfg.txBufSize → (stage b s).S.txFill ≤ s.cfg.txBufSize) ∧
    stage b s = { s with S := { s.S with mem := (stage b s).S.mem, txFill := (stage b s).S.txFill } } ∧
    (s.cfg.flushMode = .immediate ∨ s.S.txFill = s.cfg.txBufSize → implicitFlush s = flushCore s) ∧
    (s.cfg.flushMode = .delayed → s.S.txFill ≠ s.cfg.txBufSize → implicitFlush s = s)

/-- WRITE_FAST (spec/43_tx_path.md R155) stores its byte at the staging offset, the last slot when the buffer is full, and changes no
other byte of memory; it flushes nothing and never holds. -/
def Obligations.WriteFastStagesOneByteAndFlushesNothing : Prop :=
  ∀ (ctx : Ctx) (b : Byte) (s : State), AppReady ctx s → s.S.mem.wf s.cfg = true → 1 ≤ s.cfg.txBufSize →
    ∃ t, exec (.writeFast ctx b) s = .next t ∧
      t.S.mem.byte .txData (stageOffset s) = b ∧
      (∀ a o, a ≠ .txData ∨ o ≠ stageOffset s → t.S.mem.byte a o = s.S.mem.byte a o) ∧
      t = { entered ctx s with
        S := { s.S with
          mem := t.S.mem
          txFill := if s.S.txFill < s.cfg.txBufSize then s.S.txFill + 1 else s.S.txFill }
        ret := .nothing }

/-- WRITE_BLOCKING with room in the buffer (spec/43_tx_path.md R154): stage the byte, then the implicit flush. What each of the two
does is said by `StageAndImplicitFlush` and `FlushHandsOverAtMostOnePacket`. -/
def Obligations.WriteBlockingStagesThenFlushesImplicitly : Prop :=
  ∀ (ctx : Ctx) (b : Byte) (s : State), AppReady ctx s → s.S.txFill < s.cfg.txBufSize →
    exec (.writeBlocking ctx b) s = .next { implicitFlush (stage b (entered ctx s)) with ret := .nothing }

/-- FLUSH (spec/43_tx_path.md R153, R156). Nothing staged: nothing happens. The endpoint free: the first `min(fill, TX_PKT_MAX)` staged
bytes leave as one packet, logged; the rest move to the front, every other byte of memory is unchanged, and one more packet is
in flight. The endpoint busy: the buffer is untouched. -/
def Obligations.FlushHandsOverAtMostOnePacket : Prop :=
  ∀ (ctx : Ctx) (s : State) (n : Nat), AppReady ctx s → s.S.mem.wf s.cfg = true → s.S.txFill ≤ s.cfg.txBufSize →
    n = min s.S.txFill (min s.cfg.txBufSize s.cfg.bulkInMps - 1) →
    (s.S.txFill = 0 → exec (.flush ctx) s = .next { entered ctx s with ret := .nothing }) ∧
    (0 < s.S.txFill → EndpointAnswersFree .bulkIn s →
      ∃ t, exec (.flush ctx) s = .next t ∧
        (∀ k, k < s.S.txFill - n → t.S.mem.byte .txData k = s.S.mem.byte .txData (n + k)) ∧
        (∀ a o, a ≠ .txData ∨ s.S.txFill - n ≤ o → t.S.mem.byte a o = s.S.mem.byte a o) ∧
        t = { entered ctx s with
          S := { s.S with mem := t.S.mem, txFill := s.S.txFill - n, txInflight := s.S.txInflight + 1 }
          T := { s.T with
            bulkInQ := s.T.bulkInQ ++ [s.S.mem.txData.take n]
            log := s.T.log ++ [.bulkIn (s.S.mem.txData.take n)] }
          ret := .nothing
          draws := drawsAfterQuery s }) ∧
    (0 < s.S.txFill → ¬ EndpointAnswersFree .bulkIn s →
      exec (.flush ctx) s = .next { entered ctx s with ret := .nothing, draws := drawsAfterQuery s })

/-- WRITE_BLOCK (spec/43_tx_path.md R157). The endpoint busy: false, and nothing staged. The endpoint free: true, the first
`k = min(len, TX_PKT_MAX, cap - fill)` bytes of the block stored from offset `fill` on and no other byte changed, and then one
flush in either mode. -/
def Obligations.WriteBlockStagesAPacketsWorthAndFlushes : Prop :=
  ∀ (ctx : Ctx) (bs : List Byte) (s : State) (k : Nat),
    AppReady ctx s → s.S.mem.wf s.cfg = true → s.S.txFill ≤ s.cfg.txBufSize →
    k = min bs.length (min (min s.cfg.txBufSize s.cfg.bulkInMps - 1) (s.cfg.txBufSize - s.S.txFill)) →
    (¬ EndpointAnswersFree .bulkIn s →
      exec (.writeBlock ctx bs) s = .next { entered ctx s with ret := .bool false, draws := drawsAfterQuery s }) ∧
    (EndpointAnswersFree .bulkIn s →
      ∃ u, exec (.writeBlock ctx bs) s = .next { flushCore u with ret := .bool true } ∧
        (∀ j (hj : j < bs.length), j < k → u.S.mem.byte .txData (s.S.txFill + j) = bs[j]) ∧
        (∀ a o, a ≠ .txData ∨ o < s.S.txFill ∨ s.S.txFill + k ≤ o → u.S.mem.byte a o = s.S.mem.byte a o) ∧
        u = { entered ctx s with
          S := { s.S with mem := u.S.mem, txFill := s.S.txFill + k }
          draws := drawsAfterQuery s })

/-- ON_TRANSMIT_COMPLETE (spec/43_tx_path.md R158, spec/46_transport_host.md R203): one acknowledgement consumed, one packet less in
flight (saturating at 0), then a flush. -/
def Obligations.TransmitCompleteCountsDownAndFlushes : Prop :=
  ∀ s : State, EventReady s → 0 < s.T.bulkInAcked →
    exec .onTransmitComplete s =
      .next (flushCore { s with
        S := { s.S with txInflight := s.S.txInflight - 1 }
        T := { s.T with bulkInAcked := s.T.bulkInAcked - 1 } })

/-- Spec/43_tx_path.md section 4, one step at a time, for every operation and every other step: the bytes received by the host, queued
and staged, in that order, grow by exactly what is staged (WRITE_BLOCKING, at once or when resumed, WRITE_FAST, WRITE_BLOCK's first
bytes), a WRITE_FAST into a full buffer replaces the newest of them, INITIALIZE drops the staged ones, BUS_RESET the queued ones,
and every other step loses, duplicates and reorders nothing. -/
def Obligations.TransmittedBytesAreConservedInOrder : Prop :=
  ∀ (s t : State), StateInv s →
    (∀ i, exec i s = .next t →
      (∀ ctx b, i ≠ .writeBlocking ctx b) → (∀ ctx b, i ≠ .writeFast ctx b) → (∀ ctx bs, i ≠ .writeBlock ctx bs) →
      (∀ ctx, i ≠ .initializeBlock ctx) → i ≠ .busReset → txStream t = txStream s) ∧
    (∀ ctx b, exec (.writeBlocking ctx b) s = .next t → t.S.fault = none → s.S.txFill < s.cfg.txBufSize →
      txStream t = txStream s ++ [b]) ∧
    (∀ ctx b, exec (.writeBlocking ctx b) s = .next t → s.S.txFill = s.cfg.txBufSize → txStream t = txStream s) ∧
    (∀ ctx b, exec (.writeFast ctx b) s = .next t → t.S.fault = none → s.S.txFill < s.cfg.txBufSize →
      txStream t = txStream s ++ [b]) ∧
    (∀ ctx b, exec (.writeFast ctx b) s = .next t → t.S.fault = none → s.S.txFill = s.cfg.txBufSize →
      txStream t = (txStream s).dropLast ++ [b]) ∧
    (∀ ctx bs, exec (.writeBlock ctx bs) s = .next t → t.S.fault = none → EndpointAnswersFree .bulkIn s →
      txStream t =
        txStream s ++ bs.take (min (min s.cfg.txBufSize s.cfg.bulkInMps - 1) (s.cfg.txBufSize - s.S.txFill))) ∧
    (∀ ctx bs, exec (.writeBlock ctx bs) s = .next t → ¬ EndpointAnswersFree .bulkIn s → txStream t = txStream s) ∧
    (∀ ctx, exec (.initializeBlock ctx) s = .next t → txStream t = s.H.bulkIn.flatten ++ s.T.bulkInQ.flatten) ∧
    (exec .busReset s = .next t → txStream t = s.H.bulkIn.flatten ++ s.S.mem.txData.take s.S.txFill) ∧
    (∀ i, exec i s = .next t → t.S.fault ≠ none → txStream t = txStream s) ∧
    (∀ b, step s = .next t → Resumes s → s.C.main = .heldWrite b → txStream t = txStream s ++ [b]) ∧
    (step s = .next t → nextOp s = none → (Resumes s → ∀ b, s.C.main ≠ .heldWrite b) → txStream t = txStream s)

/-- Every step keeps every packet legal (spec/43_tx_path.md R160, spec/46_transport_host.md R195-R197): a bulk IN packet has
1..TX_PKT_MAX bytes, so it is never empty and never a full max-size packet, a notification has 10 bytes, a requested data
stage and a control response at most 8. -/
def Obligations.StepKeepsPacketsLegal : Prop :=
  ∀ s t : State, StateInv s → PacketsOk s → step s = .next t → PacketsOk t

/-! ### Notification -/

/-- SEND_SERIAL_STATE (spec/44_notification.md R171): true and one notification queued and logged when the interrupt endpoint is free;
false and nothing queued when it is busy. -/
def Obligations.SerialStateIsQueuedOrAnsweredFalse : Prop :=
  ∀ (ctx : Ctx) (st : Byte) (s : State), AppReady ctx s →
    (EndpointAnswersFree .intIn s →
      exec (.sendSerialState ctx st) s =
        .next { entered ctx s with
          T := { s.T with intInQ := s.T.intInQ ++ [ssPacket st], log := s.T.log ++ [.intIn (ssPacket st)] }
          ret := .bool true
          draws := drawsAfterQuery s }) ∧
    (¬ EndpointAnswersFree .intIn s →
      exec (.sendSerialState ctx st) s =
        .next { entered ctx s with ret := .bool false, draws := drawsAfterQuery s })

/-- The notification's ten bytes (spec/30_encoding.md R88, R89, spec/44_notification.md R170): the fixed header, the seven state bits
at their places, bit 7 and the last byte 0. -/
def Obligations.NotificationPacketLayout : Prop :=
  ∀ st : Byte,
    (ssPacket st).length = 10 ∧
    (ssPacket st).take 8 = [0xA1, 0x20, 0x00, 0x00, 0x00, 0x00, 0x02, 0x00] ∧
    (∃ x, (ssPacket st)[8]? = some x ∧ x.getLsbD 7 = false ∧ ∀ k, k < 7 → x.getLsbD k = st.getLsbD k) ∧
    (ssPacket st)[9]? = some 0x00

/-! ### Control requests -/

/-- SEND_ENCAPSULATED_COMMAND (spec/41_control_requests.md R113): await the command and request `min(wLength, 8)` bytes. -/
def Obligations.SendEncapsulatedCommandRequestsItsData : Prop :=
  ∀ (r : Request) (s : State),
    exec (.sendEncapsulatedCommand r) s =
      .next { s with
        S := { s.S with cs := .awaitingEncapsulatedCommand }
        T := { s.T with
          ep0Req := some (min r.wLength.toNat 8)
          log := s.T.log ++ [.dataStage (min r.wLength.toNat 8)] } }

/-- GET_ENCAPSULATED_COMMAND (spec/41_control_requests.md R114): send the first `min(wLength, 8)` stored bytes; `encap` and `cs` are
unchanged. (Of an `encap` shorter than 8 bytes, in no run, what there is: Log 10.) -/
def Obligations.GetEncapsulatedCommandSendsTheStoredBytes : Prop :=
  ∀ (r : Request) (s : State),
    exec (.getEncapsulatedCommand r) s =
      .next { s with T := { s.T with log := s.T.log ++ [.ctrlIn (s.S.mem.encap.take (min r.wLength.toNat 8))] } }

/-- SET_LINE_CODING (spec/41_control_requests.md R115), with its SETUP16 row: whatever wLength is, await the line coding and request 7
bytes; `lc` and `conn` do not change. -/
def Obligations.SetLineCodingRequestsSevenBytes : Prop :=
  (∀ (c : Config) (p : Setup), TargetsCdc c p → p.bRequest = 0x20 →
    u16le p.bmRequestType p.bRequest &&& 0xFF7F#16 = 0x2021#16 ∧ decodeSetup c p = .setLineCoding p.request) ∧
  ∀ (r : Request) (s : State),
    exec (.setLineCoding r) s =
      .next { s with
        S := { s.S with cs := .awaitingLineCoding }
        T := { s.T with ep0Req := some 7, log := s.T.log ++ [.dataStage 7] } }

/-- GET_LINE_CODING (spec/41_control_requests.md R116): the 7 bytes of `lc`, whatever wLength is. (Of an `lc` shorter than 7
bytes, in no run, what there is: Log 10.) -/
def Obligations.GetLineCodingSendsTheImage : Prop :=
  ∀ (r : Request) (s : State),
    exec (.getLineCoding r) s = .next { s with T := { s.T with log := s.T.log ++ [.ctrlIn (s.S.mem.lc.take 7)] } }

/-- SET_CONTROL_LINE_STATE (spec/41_control_requests.md R117): the two carrier flags from bits 0 and 1 of wValue and nothing from its
other bits; `conn` is not touched. -/
def Obligations.SetControlLineStateSetsTheCarrierFlags : Prop :=
  ∀ (r : Request) (s : State),
    exec (.setControlLineState r) s =
      .next { s with
        S := { s.S with carrierDte := decide (r.wValue &&& 1 = 1), carrierAct := decide (r.wValue &&& 2 = 2) }
        T := { s.T with log := s.T.log ++ [.zlStatus] } }

/-- SEND_BREAK (spec/41_control_requests.md R118), with its SETUP16 row: the 16-bit wValue is stored as given, 0xFFFF included, and the
zero-length status is sent; a second SendBreak of the same value changes only the log. -/
def Obligations.SendBreakStoresWValue : Prop :=
  (∀ (c : Config) (p : Setup), TargetsCdc c p → p.bRequest = 0x23 →
    u16le p.bmRequestType p.bRequest &&& 0xFF7F#16 = 0x2321#16 ∧ decodeSetup c p = .sendBreak p.request) ∧
  ∀ (r : Request) (s : State),
    exec (.sendBreak r) s =
      .next { s with S := { s.S with brk := r.wValue }, T := { s.T with log := s.T.log ++ [.zlStatus] } } ∧
    (s.S.brk = r.wValue →
      exec (.sendBreak r) s = .next { s with T := { s.T with log := s.T.log ++ [.zlStatus] } })

/-- CTRL_OTHER (spec/41_control_requests.md R119): a request that passes the target check with any other code stalls, cancels the
requested data stage, and raises no fault. -/
def Obligations.UnknownRequestStalls : Prop :=
  (∀ (c : Config) (p : Setup), TargetsCdc c p →
    p.bRequest ∉ [0x00#8, 0x01#8, 0x20#8, 0x21#8, 0x22#8, 0x23#8] → decodeSetup c p = .ctrlOther p) ∧
  ∀ (p : Setup) (s : State),
    exec (.ctrlOther p) s = .next { s with T := { s.T with ep0Req := none, log := s.T.log ++ [.stall] } }

/-- ON_SETUP_RECEIVED (spec/41_control_requests.md R110, spec/46_transport_host.md R200): the packet is taken, `cs` becomes Idle, and the
request the packet stands for runs. -/
def Obligations.SetupEventRunsItsRequest : Prop :=
  ∀ (s : State) (p : Setup), EventReady s → s.T.setupLatch = some p →
    ∃ t, exec .onSetupReceived s = .next t ∧
      exec (decodeSetup s.cfg p) { s with S := { s.S with cs := .idle }, T := { s.T with setupLatch := none } } = .next t

/-- The ControlState transition table (spec/41_control_requests.md R128), complete: where each event leads and what it emits, and that no
other operation changes `cs`. -/
def Obligations.ControlStateFollowsItsTransitionTable : Prop :=
  (∀ (s t : State) (p : Setup), EventReady s → s.T.setupLatch = some p → exec .onSetupReceived s = .next t →
    (¬ TargetsCdc s.cfg p → t.S.cs = .idle ∧ t.T.log = s.T.log ++ [.stall]) ∧
    (TargetsCdc s.cfg p →
      (p.bRequest = 0x00 →
        t.S.cs = .awaitingEncapsulatedCommand ∧ t.T.log = s.T.log ++ [.dataStage (min p.wLength.toNat 8)]) ∧
      (p.bRequest = 0x01 →
        t.S.cs = .idle ∧ t.T.log = s.T.log ++ [.ctrlIn (s.S.mem.encap.take (min p.wLength.toNat 8))]) ∧
      (p.bRequest = 0x20 → t.S.cs = .awaitingLineCoding ∧ t.T.log = s.T.log ++ [.dataStage 7]) ∧
      (p.bRequest = 0x21 → t.S.cs = .idle ∧ t.T.log = s.T.log ++ [.ctrlIn (s.S.mem.lc.take 7)]) ∧
      (p.bRequest = 0x22 ∨ p.bRequest = 0x23 → t.S.cs = .idle ∧ t.T.log = s.T.log ++ [.zlStatus]) ∧
      (p.bRequest ∉ [0x00#8, 0x01#8, 0x20#8, 0x21#8, 0x22#8, 0x23#8] →
        t.S.cs = .idle ∧ t.T.log = s.T.log ++ [.stall]))) ∧
  (∀ (s t : State) (d : List Byte), EventReady s → s.T.dsLatch = some d → exec .onDataStageComplete s = .next t →
    (s.S.cs = .awaitingEncapsulatedCommand → d.length = s.cfg.ep0Mps → d.length ≤ 8 →
      t.S.cs = .awaitingZeroLengthAck ∧ t.T.log = s.T.log ++ [.dataStage 0]) ∧
    (s.S.cs = .awaitingEncapsulatedCommand → d.length ≠ s.cfg.ep0Mps → d.length ≤ 8 →
      t.S.cs = .idle ∧ t.T.log = s.T.log ++ [.zlStatus]) ∧
    (s.S.cs = .awaitingLineCoding → d.length = 7 → t.S.cs = .idle ∧ t.T.log = s.T.log ++ [.zlStatus]) ∧
    (s.S.cs = .awaitingZeroLengthAck → t.S.cs = .idle ∧ t.T.log = s.T.log ++ [.zlStatus]) ∧
    (s.S.cs = .idle → t.S.cs = .idle ∧ t.T.log = s.T.log)) ∧
  (∀ (ctx : Ctx) (s t : State), exec (.initializeBlock ctx) s = .next t → t.S.cs = .idle ∧ t.T.log = s.T.log) ∧
  (∀ (i : Instr) (s t : State), exec i s = .next t → i.isRequest = false → i ≠ .onSetupReceived →
    i ≠ .onDataStageComplete → (∀ ctx, i ≠ .initializeBlock ctx) → t.S.cs = s.S.cs)

/-- The data stage of SendEncapsulatedCommand (spec/41_control_requests.md R122, R123): the bytes are copied to the front of `encap` and no
other byte of memory changes; a stage of exactly EP0_MPS bytes asks for one zero-length read, any other is acknowledged. -/
def Obligations.EncapsulatedCommandIsStored : Prop :=
  ∀ (s : State) (d : List Byte), EventReady s → s.T.dsLatch = some d → s.S.mem.wf s.cfg = true →
    s.S.cs = .awaitingEncapsulatedCommand → d.length ≤ 8 →
    ∃ t, exec .onDataStageComplete s = .next t ∧
      (∀ k (hk : k < d.length), t.S.mem.byte .encap k = d[k]) ∧
      (∀ a o, a ≠ .encap ∨ d.length ≤ o → t.S.mem.byte a o = s.S.mem.byte a o) ∧
      (d.length = s.cfg.ep0Mps →
        t = { s with
          S := { s.S with mem := t.S.mem, cs := .awaitingZeroLengthAck }
          T := { s.T with dsLatch := none, ep0Req := some 0, log := s.T.log ++ [.dataStage 0] } }) ∧
      (d.length ≠ s.cfg.ep0Mps →
        t = { s with
          S := { s.S with mem := t.S.mem, cs := .idle }
          T := { s.T with dsLatch := none, log := s.T.log ++ [.zlStatus] } })

/-- The data stage of SetLineCoding (spec/41_control_requests.md R124): the seven bytes become `lc` unchecked and no other byte of memory
changes, the connection flag is set, the status is sent. -/
def Obligations.LineCodingIsStoredRaw : Prop :=
  ∀ (s : State) (d : List Byte), EventReady s → s.T.dsLatch = some d → s.S.cs = .awaitingLineCoding → d.length = 7 →
    exec .onDataStageComplete s =
      .next { s with
        S := { s.S with mem := { s.S.mem with lc := d }, conn := true, cs := .idle }
        T := { s.T with dsLatch := none, log := s.T.log ++ [.zlStatus] } }

/-- The two other completions (spec/41_control_requests.md R125, R126): the zero-length read ends with the status whatever it brought; in
Idle nothing happens but that the bytes are taken. -/
def Obligations.OtherDataStagesStoreNothing : Prop :=
  ∀ (s : State) (d : List Byte), EventReady s → s.T.dsLatch = some d →
    (s.S.cs = .awaitingZeroLengthAck →
      exec .onDataStageComplete s =
        .next { s with
          S := { s.S with cs := .idle }
          T := { s.T with dsLatch := none, log := s.T.log ++ [.zlStatus] } }) ∧
    (s.S.cs = .idle → exec .onDataStageComplete s = .next { s with T := { s.T with dsLatch := none } })

/-- A data stage of a length no request asked for (spec/41_control_requests.md R122, R124) faults with DATA_STAGE_LENGTH and changes nothing
else, the latch included. -/
def Obligations.WrongDataStageLengthFaults : Prop :=
  ∀ (s : State) (d : List Byte), EventReady s → s.T.dsLatch = some d →
    (s.S.cs = .awaitingEncapsulatedCommand ∧ 8 < d.length) ∨ (s.S.cs = .awaitingLineCoding ∧ d.length ≠ 7) →
    exec .onDataStageComplete s = .next { s with S := { s.S with fault := some .dataStageLength } }

/-! ### Initialization and context -/

/-- INITIALIZE (spec/45_initialize_context.md R180), before or after the first one: exactly the listed fields; `encap`, the buffers, the
transport, the host record, the mask and the marks are unchanged. -/
def Obligations.InitializeWritesExactlyItsFields : Prop :=
  ∀ (ctx : Ctx) (s : State), s.S.fault = none → ctxOpen ctx s = true →
    exec (.initializeBlock ctx) s =
      .next { entered ctx s with
        S := { s.S with
          mem := { s.S.mem with lc := [0x80, 0x25, 0x00, 0x00, 0x00, 0x00, 0x08] }
          carrierDte := false
          carrierAct := false
          conn := false
          brk := 0
          rxPend := false
          txFill := 0
          txInflight := 0
          cs := .idle
          init := true }
        ret := .nothing }

/-- Spec/45_initialize_context.md R184: a second INITIALIZE, by either context, leaves the state the first one left (a MAIN step ending
a POLL, as every MAIN step does). -/
def Obligations.InitializeTwiceIsOnce : Prop :=
  ∀ (c c' : Ctx) (s t : State), exec (.initializeBlock c) s = .next t → ctxOpen c' t = true →
    exec (.initializeBlock c') t = .next (entered c' t)

/-- MASK_IRQ, UNMASK_IRQ and POLL (spec/45_initialize_context.md R181-R183), before INITIALIZE too. -/
def Obligations.MaskUnmaskAndPoll : Prop :=
  ∀ s : State, s.S.fault = none → mainFree s = true →
    exec .maskIrq s = .next { s with C := { masked := true, main := .ready } } ∧
    exec .unmaskIrq s = .next { s with C := { masked := false, main := .ready } } ∧
    exec .poll s = .next { s with C := { s.C with main := .polling } }

/-- Spec/20_memory.md R67: every operation leaves the interrupt mask as it found it, and so does every step; only MASK_IRQ and UNMASK_IRQ
change it. -/
def Obligations.OnlyMaskOperationsChangeTheMask : Prop :=
  (∀ (i : Instr) (s t : State), exec i s = .next t → i ≠ .maskIrq → i ≠ .unmaskIrq → t.C.masked = s.C.masked) ∧
  (∀ s t : State, step s = .next t → nextOp s ≠ some .maskIrq → nextOp s ≠ some .unmaskIrq → t.C.masked = s.C.masked) ∧
  (∀ s t : State, exec .maskIrq s = .next t → t.C.masked = true) ∧
  (∀ s t : State, exec .unmaskIrq s = .next t → t.C.masked = false)

/-- The flag table (spec/10_state.md section 6): no operation and no other step sets or clears a flag but the ones listed, and HAS_DATA,
READ (resumed or not), IS_CONNECTED and GET_CARRIER read the flags. -/
def Obligations.FlagsAreWrittenOnlyAsTheTableSays : Prop :=
  (∀ (i : Instr) (s t : State), exec i s = .next t → i.isRequest = false → i ≠ .onSetupReceived →
    (s.S.rxPend = false → t.S.rxPend = true → i = .onPacketReceived ∧ ∃ d, s.T.rxLatch = some d ∧ d ≠ []) ∧
    (s.S.rxPend = true → t.S.rxPend = false →
      (∃ ctx, i = .read ctx ∧ s.S.rxCur + 1 = s.S.rxLen) ∨ (∃ ctx, i = .discard ctx) ∨ ∃ ctx, i = .initializeBlock ctx) ∧
    (s.S.conn = false → t.S.conn = true → i = .onDataStageComplete ∧ s.S.cs = .awaitingLineCoding) ∧
    (s.S.conn = true → t.S.conn = false → ∃ ctx, i = .initializeBlock ctx) ∧
    (s.S.carrierDte = false → t.S.carrierDte = false) ∧
    (s.S.carrierDte = true → t.S.carrierDte = false → ∃ ctx, i = .initializeBlock ctx) ∧
    (s.S.carrierAct = false → t.S.carrierAct = false) ∧
    (s.S.carrierAct = true → t.S.carrierAct = false → ∃ ctx, i = .initializeBlock ctx)) ∧
  (∀ (i : Instr) (s t : State), exec i s = .next t → i.isRequest = true →
    t.S.rxPend = s.S.rxPend ∧ t.S.conn = s.S.conn ∧
    (t.S.carrierDte ≠ s.S.carrierDte → ∃ r, i = .setControlLineState r ∧ t.S.carrierDte = r.wValue.getLsbD 0) ∧
    (t.S.carrierAct ≠ s.S.carrierAct → ∃ r, i = .setControlLineState r ∧ t.S.carrierAct = r.wValue.getLsbD 1)) ∧
  (∀ (s t : State) (p : Setup), exec .onSetupReceived s = .next t → s.T.setupLatch = some p →
    t.S.rxPend = s.S.rxPend ∧ t.S.conn = s.S.conn ∧
    (t.S.carrierDte ≠ s.S.carrierDte → p.bRequest = 0x22 ∧ t.S.carrierDte = p.wValue.getLsbD 0) ∧
    (t.S.carrierAct ≠ s.S.carrierAct → p.bRequest = 0x22 ∧ t.S.carrierAct = p.wValue.getLsbD 1)) ∧
  (∀ s t : State, step s = .next t → nextOp s = none →
    (s.S.rxPend = false → t.S.rxPend = false) ∧
    (s.S.rxPend = true → t.S.rxPend = false → Resumes s ∧ s.C.main = .heldRead ∧ s.S.rxCur + 1 = s.S.rxLen) ∧
    (Resumes s → s.C.main = .heldRead → s.S.rxPend = true ∧ t.ret = .byte (s.S.mem.byte .rxData s.S.rxCur)) ∧
    t.S.conn = s.S.conn ∧ t.S.carrierDte = s.S.carrierDte ∧ t.S.carrierAct = s.S.carrierAct) ∧
  (∀ (ctx : Ctx) (s t : State), AppReady ctx s →
    (exec (.hasData ctx) s = .next t → t.ret = .bool s.S.rxPend) ∧
    (exec (.read ctx) s = .next t → s.S.rxPend = true → t.ret = .byte (s.S.mem.byte .rxData s.S.rxCur)) ∧
    (exec (.isConnected ctx) s = .next t → t.ret = .bool s.S.conn) ∧
    (exec (.getCarrier ctx) s = .next t → t.ret = .carrier s.S.carrierDte s.S.carrierAct))

/-- Spec/10_state.md R34: `lc` is written only by the completion of a SetLineCoding data stage, which stores its bytes, and by
INITIALIZE, over every operation and every step; GetLineCoding and the application's read give it. -/
def Obligations.LineCodingHasTwoWriters : Prop :=
  (∀ (i : Instr) (s t : State), exec i s = .next t → t.S.mem.lc ≠ s.S.mem.lc →
    (i = .onDataStageComplete ∧ s.S.cs = .awaitingLineCoding ∧ s.T.dsLatch = some t.S.mem.lc) ∨
      ∃ ctx, i = .initializeBlock ctx ∧ t.S.mem.lc = [0x80, 0x25, 0x00, 0x00, 0x00, 0x00, 0x08]) ∧
  (∀ s t : State, step s = .next t → t.S.mem.lc ≠ s.S.mem.lc →
    (nextOp s = some .onDataStageComplete ∧ s.S.cs = .awaitingLineCoding ∧ s.T.dsLatch = some t.S.mem.lc) ∨
      ∃ ctx, nextOp s = some (.initializeBlock ctx) ∧ t.S.mem.lc = [0x80, 0x25, 0x00, 0x00, 0x00, 0x00, 0x08]) ∧
  (∀ (r : Request) (s t : State), s.S.mem.wf s.cfg = true → exec (.getLineCoding r) s = .next t →
    t.T.log = s.T.log ++ [.ctrlIn s.S.mem.lc]) ∧
  (∀ (ctx : Ctx) (s t : State), AppReady ctx s → s.S.mem.wf s.cfg = true → exec (.getLineCodingApp ctx) s = .next t →
    t.ret = .bytes s.S.mem.lc)

/-- Spec/10_state.md section 2: `brk` is written only by SendBreak (alone or inside ON_SETUP_RECEIVED) and INITIALIZE, `encap` only by the
completion of an encapsulated command's data stage, over every operation and every other step. -/
def Obligations.BreakAndEncapsulatedCommandHaveTheirOwnWriters : Prop :=
  (∀ s t : State, step s = .next t → nextOp s = none → t.S.brk = s.S.brk ∧ t.S.mem.encap = s.S.mem.encap) ∧
  ∀ (i : Instr) (s t : State), exec i s = .next t →
    (t.S.brk ≠ s.S.brk →
      (∃ r, i = .sendBreak r ∧ t.S.brk = r.wValue) ∨
        (i = .onSetupReceived ∧ ∃ p, s.T.setupLatch = some p ∧ TargetsCdc s.cfg p ∧ p.bRequest = 0x23 ∧ t.S.brk = p.wValue) ∨
        (∃ ctx, i = .initializeBlock ctx) ∧ t.S.brk = 0) ∧
    (t.S.mem.encap ≠ s.S.mem.encap → i = .onDataStageComplete ∧ s.S.cs = .awaitingEncapsulatedCommand)

/-- The round trip of spec/41_control_requests.md sections 1 and 2 (the document's section 8): after the completion of a SetLineCoding data
stage and any number of further steps, none included, that neither complete another nor initialize, the line coding is those 7
bytes and the block is connected; GetLineCoding sends them, alone and inside ON_SETUP_RECEIVED, and the application reads them. -/
def Obligations.GetLineCodingReturnsTheLastCompletedSetLineCoding : Prop :=
  ∀ (s t u : State) (d : List Byte) (n : Nat),
    EventReady s → s.T.dsLatch = some d → s.S.cs = .awaitingLineCoding → d.length = 7 →
    exec .onDataStageComplete s = .next t → RunsWhile KeepsLineCoding n t u →
    u.S.mem.lc = d ∧ u.S.conn = true ∧
    (∀ r, exec (.getLineCoding r) u = .next { u with T := { u.T with log := u.T.log ++ [.ctrlIn d] } }) ∧
    (∀ p, EventReady u → u.T.setupLatch = some p → TargetsCdc u.cfg p → p.bRequest = 0x21 →
      exec .onSetupReceived u =
        .next { u with
          S := { u.S with cs := .idle }
          T := { u.T with setupLatch := none, log := u.T.log ++ [.ctrlIn d] } }) ∧
    (∀ ctx, AppReady ctx u → exec (.getLineCodingApp ctx) u = .next { entered ctx u with ret := .bytes d })

/-! ### Host and bus -/

/-- The host and bus operations (spec/46_transport_host.md R204-R209), each under its own guard. -/
def Obligations.HostOperationsChangeTheTransport : Prop :=
  ∀ s : State, s.S.fault = none →
    (∀ p, exec (.hostSetup p) s =
      .next { s with T := { s.T with setupLatch := some p, ep0Req := none, dsLatch := none } }) ∧
    exec .busReset s =
      .next { s with T := ⟨true, none, none, none, none, [], 0, [], s.T.log⟩ } ∧
    (∀ d, s.T.ep0Req = some d.length → s.T.dsLatch = none →
      exec (.hostDataOut d) s = .next { s with T := { s.T with dsLatch := some d, ep0Req := none } }) ∧
    (∀ d, s.T.rxArmed = true → s.T.rxLatch = none → d.length ≤ s.cfg.rxBufSize →
      exec (.hostBulkOut d) s = .next { s with T := { s.T with rxArmed := false, rxLatch := some d } }) ∧
    (∀ p q, s.T.bulkInQ = p :: q →
      exec .hostAckBulkIn s =
        .next { s with
          T := { s.T with bulkInQ := q, bulkInAcked := s.T.bulkInAcked + 1 }
          H := { s.H with bulkIn := s.H.bulkIn ++ [p] } }) ∧
    (∀ p q, s.T.intInQ = p :: q →
      exec .hostAckIntIn s =
        .next { s with
          T := { s.T with intInQ := q }
          H := { s.H with notif := s.H.notif ++ [p] } })

/-- Spec/46_transport_host.md R211: an ENV step changes only `T` and `H`, and whether it is taken depends on its own guard alone. And the
rest of the isolation: no operation of MAIN or IRQ, and no step but one of ENV, changes what the host has received. -/
def Obligations.EnvStepsChangeOnlyTransportAndHost : Prop :=
  (∀ (i : Instr) (s t : State), i.agent = .env → exec i s = .next t → t = { s with T := t.T, H := t.H }) ∧
  (∀ (i : Instr) (s u : State), i.agent = .env → (∃ t, exec i s = .next t) → u.S.fault = none → u.T = s.T →
    u.cfg.rxBufSize = s.cfg.rxBufSize → ∃ t, exec i u = .next t) ∧
  (∀ (i : Instr) (s t : State), i.agent ≠ .env → exec i s = .next t → t.H = s.H) ∧
  (∀ s t : State, step s = .next t → (∀ i, nextOp s = some i → i.agent ≠ .env) → t.H = s.H)

/-! ### Faults and admission -/

/-- Spec/60_exceptions.md R221: while the block is not initialized, every admitted application-port operation but INITIALIZE and every
admitted transport event faults with NOT_INITIALIZED and changes nothing else. -/
def Obligations.UninitializedOperationsFault : Prop :=
  ∀ (i : Instr) (s : State), needsInit i = true → s.S.fault = none → s.S.init = false → admitted i s = true →
    exec i s = .next { s with S := { s.S with fault := some .notInitialized } }

/-- Spec/60_exceptions.md R226, R232: with the fault mark set no agent steps, by any operation and by any turn. -/
def Obligations.FaultStopsEveryAgent : Prop :=
  (∀ (s : State) (r : FaultReason), s.cfg.valid = true → s.S.fault = some r → step s = .fault (.stopped r)) ∧
  (∀ (i : Instr) (s : State) (r : FaultReason), i.isRequest = false → s.S.fault = some r → exec i s = .fault (.stopped r))

/-- Spec/60_exceptions.md section 3: an operation that sets the fault mark discards every other write it made; only four operations' rules
raise a fault other than NOT_INITIALIZED, and a step that runs no operation raises none. -/
def Obligations.FaultDiscardsEveryOtherWrite : Prop :=
  (∀ s t : State, step s = .next t → nextOp s = none → t.S.fault = none) ∧
  ∀ (i : Instr) (s t : State), exec i s = .next t → t.S.fault ≠ s.S.fault →
    ∃ r, t = { s with S := { s.S with fault := some r } } ∧
      (r = .notInitialized → needsInit i = true ∧ s.S.init = false) ∧
      (r = .blockingDeadlock → (∃ ctx, i = .read ctx) ∨ ∃ ctx b, i = .writeBlocking ctx b) ∧
      (r = .rxOversize → i = .onPacketReceived) ∧
      (r = .dataStageLength → i = .onDataStageComplete)

/-- Spec/60_exceptions.md R226, complete: from a state with no fault mark an operation has a step exactly when its agent may step and its
own guard holds, and then it always ends in a next state. -/
def Obligations.AdmittedOperationsAndOnlyTheyStep : Prop :=
  ∀ (i : Instr) (s : State), i.isRequest = false → s.S.fault = none →
    (admitted i s = true → ∃ t, exec i s = .next t) ∧
    (admitted i s = false → ∃ g, exec i s = .refused (.notAdmitted g))

/-! ### Invariants -/

/-- Every step keeps the invariants of spec/10_state.md R46 (I1), (I2), (I4), the capacities of the four areas and the parameter
constraints. -/
def Obligations.StepKeepsTheStateInvariant : Prop := ∀ s t : State, StateInv s → step s = .next t → StateInv t

/-- Power-on under every legal parameter set, and reset, satisfy all five invariants. Spec/10_state.md section 7 leaves most fields
unspecified at power-on: that no frame pends, nothing is staged, none is in flight and `cs` is Idle are the model's values (Log 3,
DESIGN CHOICE, unsafe), and reset's parameters are the vector defaults (Log 1, DESIGN CHOICE). -/
def Obligations.PowerOnMeetsTheInvariants : Prop :=
  (∀ c : Config, c.valid = true →
    StateInv (State.powerOn c) ∧ ContractInv (State.powerOn c) ∧ PacketsOk (State.powerOn c) ∧
      InflightBounded (State.powerOn c) ∧ HeldWhilePending (State.powerOn c)) ∧
  StateInv State.reset ∧ ContractInv State.reset ∧ PacketsOk State.reset ∧ InflightBounded State.reset ∧
    HeldWhilePending State.reset

/-- Every step keeps what the host's duties make true of the latches (spec/46_transport_host.md R206, R208, R210). -/
def Obligations.StepKeepsTheHostContract : Prop :=
  ∀ s t : State, StateInv s → ContractInv s → step s = .next t → ContractInv t

/-- Spec/41_control_requests.md R129 and spec/60_exceptions.md R225: while the host keeps its contract, no step raises RX_OVERSIZE or
DATA_STAGE_LENGTH. -/
def Obligations.LengthFaultsAreUnreachableUnderTheContract : Prop :=
  ∀ s t : State, ContractInv s → s.S.fault = none → step s = .next t →
    t.S.fault ≠ some .rxOversize ∧ t.S.fault ≠ some .dataStageLength

/-- The count of packets in flight (spec/10_state.md section 6, (I3)) stays within the packets queued or acknowledged over every operation
and every step but BUS_RESET, which discards packets in flight and leaves the count (spec/46_transport_host.md section 3; Log 18,
DEDUCED). -/
def Obligations.InflightCountIsBoundedUntilABusReset : Prop :=
  (∀ (i : Instr) (s t : State), InflightBounded s → exec i s = .next t → i ≠ .busReset → InflightBounded t) ∧
  (∀ s t : State, InflightBounded s → step s = .next t → nextOp s ≠ some .busReset → InflightBounded t)

/-- What no step changes (spec/60_exceptions.md R224, spec/46_transport_host.md R191, spec/10_state.md R45): the parameters; entries
already in the transport log and packets the host has received; an `init` or `refused` mark once set. -/
def Obligations.StepNeverUndoesHistory : Prop :=
  ∀ s t : State, step s = .next t →
    t.cfg = s.cfg ∧ (∃ l, t.T.log = s.T.log ++ l) ∧ (∃ l, t.H.bulkIn = s.H.bulkIn ++ l) ∧
    (∃ l, t.H.notif = s.H.notif ++ l) ∧ (s.S.init = true → t.S.init = true) ∧ (s.S.refused = true → t.S.refused = true)
end

