-- ==== Sys2Proof/Laws/Codec.lean ====
section
/-! SUPPORT. The laws of the encoding tables: op codes are distinct and complete, 16-bit fields survive their two bytes, and each
payload is taken back as it was laid out. -/

namespace Sys2Proof

theorem Op.ofCode_code (o : Op) : Op.ofCode o.code = some o := by cases o <;> decide

theorem Op.code_ofCode {b : Byte} {o : Op} (h : Op.ofCode b = some o) : o.code = b := by
  have := List.find?_some h
  simpa using this

theorem u16le_le16 (w : Word) : u16le (w.extractLsb' 0 8) (w.extractLsb' 8 8) = w := by
  apply BitVec.eq_of_getLsbD_eq
  intro i hi
  simp only [u16le, BitVec.append_eq, BitVec.getLsbD_append, BitVec.getLsbD_extractLsb']
  by_cases h : i < 8
  · simp [h]
  · simp [h, show i - 8 < 8 by omega, show 8 + (i - 8) = i by omega]

theorem le16_u16le (lo hi : Byte) : le16 (u16le lo hi) = [lo, hi] := by
  have h1 : (u16le lo hi).extractLsb' 0 8 = lo := by
    apply BitVec.eq_of_getLsbD_eq
    intro i hi'
    simp only [u16le, BitVec.append_eq, BitVec.getLsbD_append, BitVec.getLsbD_extractLsb']
    simp [hi']
  have h2 : (u16le lo hi).extractLsb' 8 8 = hi := by
    apply BitVec.eq_of_getLsbD_eq
    intro i hi'
    simp only [u16le, BitVec.append_eq, BitVec.getLsbD_append, BitVec.getLsbD_extractLsb']
    simp [hi', show ¬ (8 + i < 8) by omega]
  simp [le16, h1, h2]

/-- The fields of a word laid out as two bytes. -/
theorem opField_u16le (lo hi : Byte) : opField (u16le lo hi) = lo := by
  apply BitVec.eq_of_getLsbD_eq
  intro i h
  simp only [opField, u16le, BitVec.append_eq, BitVec.getLsbD_append, BitVec.getLsbD_extractLsb']
  simp [h]

theorem reservedField_u16le (lo hi : Byte) : reservedField (u16le lo hi) = hi.extractLsb' 1 7 := by
  apply BitVec.eq_of_getLsbD_eq
  intro i h
  simp only [reservedField, u16le, BitVec.append_eq, BitVec.getLsbD_append, BitVec.getLsbD_extractLsb']
  simp [h, show ¬ (9 + i < 8) by omega, show 9 + i - 8 = 1 + i by omega]

theorem ctxBit_u16le (lo hi : Byte) : ctxBit (u16le lo hi) = hi.getLsbD 0 := by
  simp only [ctxBit, u16le, BitVec.append_eq, BitVec.getLsbD_append]
  simp

/-- A byte whose bits 7:1 are zero is its bit 0. -/
theorem high_byte_of_ctx : ∀ hi : Byte, hi.extractLsb' 1 7 = 0 → hi = if hi.getLsbD 0 then 1 else 0 := by decide

theorem takeBlock_blockBytes (d rest : List Byte) (h : d.length < 65536) :
    takeBlock (blockBytes d ++ rest) = some (d, rest) := by
  have hn : (BitVec.ofNat 16 d.length).toNat = d.length := by simp [Nat.mod_eq_of_lt h]
  simp [blockBytes, le16, takeBlock, u16le_le16, hn]

theorem takeSetup_bytes (p : Setup) (rest : List Byte) : takeSetup (p.bytes ++ rest) = some (p, rest) := by
  simp [Setup.bytes, le16, takeSetup, u16le_le16]

end Sys2Proof
end

