-- ==== Sys2Proof/Laws/Memory.lean ====
section
/-! SUPPORT. The laws of buffer access: a write leaves the length and every other offset alone and is read back; the canonical form
of memory is kept by every write. -/

namespace Sys2Proof.Machine

@[simp] theorem writeAt_nil (d : List Byte) (off : Nat) : writeAt d off [] = d := rfl

@[simp] theorem writeAt_cons (d : List Byte) (off : Nat) (b : Byte) (bs : List Byte) :
    writeAt d off (b :: bs) = writeAt (d.set off b) (off + 1) bs := rfl

/-- A write never changes how many bytes an area holds. -/
@[simp] theorem length_writeAt (d : List Byte) (off : Nat) (bs : List Byte) : (writeAt d off bs).length = d.length := by
  induction bs generalizing d off with
  | nil => rfl
  | cons b bs ih => simp [ih]

/-- Offsets outside the written bytes read as before. -/
theorem getElem?_writeAt_of_outside (d : List Byte) (off : Nat) (bs : List Byte) (o : Nat)
    (h : o < off ∨ off + bs.length ≤ o) : (writeAt d off bs)[o]? = d[o]? := by
  induction bs generalizing d off with
  | nil => rfl
  | cons b bs ih =>
    simp only [List.length_cons] at h
    have hne : off ≠ o := by omega
    rw [writeAt_cons, ih _ _ (by omega), List.getElem?_set_ne hne]

/-- Offsets inside the written bytes read what was written. -/
theorem getElem?_writeAt_of_inside (d : List Byte) (off : Nat) (bs : List Byte) (k : Nat) (hk : k < bs.length)
    (hd : off + bs.length ≤ d.length) : (writeAt d off bs)[off + k]? = bs[k]? := by
  induction bs generalizing d off k with
  | nil => simp at hk
  | cons b bs ih =>
    simp only [List.length_cons] at hk hd
    cases k with
    | zero =>
      rw [writeAt_cons, getElem?_writeAt_of_outside _ _ _ _ (by omega)]
      simp [List.getElem?_set_self (show off < d.length by omega)]
    | succ k =>
      have := ih (d.set off b) (off + 1) k (by omega) (by simp; omega)
      rw [writeAt_cons, show off + (k + 1) = off + 1 + k by omega, this]
      simp

/-- A write that fits, as the list it makes. -/
theorem writeAt_eq_append (d : List Byte) (off : Nat) (bs : List Byte) (hd : off + bs.length ≤ d.length) :
    writeAt d off bs = d.take off ++ bs ++ d.drop (off + bs.length) := by
  induction bs generalizing d off with
  | nil => simp
  | cons b bs ih =>
    simp only [List.length_cons] at hd
    rw [writeAt_cons, ih _ _ (by simp; omega)]
    have h1 : (d.set off b).take (off + 1) = d.take off ++ [b] := by
      apply List.ext_getElem?
      intro i
      rcases Nat.lt_trichotomy i off with h | h | h
      · rw [List.getElem?_take_of_lt (by omega), List.getElem?_set_ne (by omega), List.getElem?_append_left (by simp; omega),
          List.getElem?_take_of_lt h]
      · subst h
        rw [List.getElem?_take_of_lt (by omega), List.getElem?_set_self (by omega),
          List.getElem?_append_right (by simp)]
        have : i - min i d.length = 0 := by omega
        simp [this]
      · rw [List.getElem?_eq_none (by simp; omega), List.getElem?_eq_none (by simp; omega)]
    have h2 : (d.set off b).drop (off + 1 + bs.length) = d.drop (off + (b :: bs).length) := by
      rw [List.drop_set_of_lt (by omega)]
      simp [Nat.add_assoc, Nat.add_comm 1]
    rw [h1, h2]
    simp

@[simp] theorem Memory.area_setArea_same (m : Memory) (a : Area) (bs : List Byte) : (m.setArea a bs).area a = bs := by
  cases a <;> rfl

theorem Memory.area_setArea_ne (m : Memory) {a b : Area} (bs : List Byte) (h : b ≠ a) :
    (m.setArea a bs).area b = m.area b := by
  cases a <;> cases b <;> first | rfl | exact absurd rfl h

@[simp] theorem Memory.area_write_same (m : Memory) (a : Area) (off : Nat) (bs : List Byte) :
    (m.write a off bs).area a = writeAt (m.area a) off bs := by simp [Memory.write]

theorem Memory.area_write_ne (m : Memory) {a b : Area} (off : Nat) (bs : List Byte) (h : b ≠ a) :
    (m.write a off bs).area b = m.area b := Memory.area_setArea_ne m _ h

/-- The canonical form says how long each area is. -/
theorem Memory.wf_iff (c : Config) (m : Memory) : m.wf c = true ↔ ∀ a, (m.area a).length = a.capacity c := by
  constructor
  · intro h a
    simp only [Memory.wf, Bool.and_eq_true, beq_iff_eq] at h
    cases a <;> simp [Memory.area, Area.capacity, h]
  · intro h
    have h1 := h .rxData
    have h2 := h .txData
    have h3 := h .encap
    have h4 := h .lc
    simp only [Memory.area, Area.capacity] at h1 h2 h3 h4
    simp [Memory.wf, h1, h2, h3, h4]

/-- Every write keeps the canonical form. -/
theorem Memory.write_keeps_wf (c : Config) (m : Memory) (a : Area) (off : Nat) (bs : List Byte) (h : m.wf c = true) :
    (m.write a off bs).wf c = true := by
  rw [Memory.wf_iff] at h ⊢
  intro b
  by_cases hb : b = a
  · subst hb; simp [h]
  · rw [Memory.area_write_ne _ _ _ hb, h]

/-- Replacing an area by its capacity's bytes keeps the canonical form. -/
theorem Memory.setArea_keeps_wf (c : Config) (m : Memory) (a : Area) (bs : List Byte) (h : m.wf c = true)
    (hl : bs.length = a.capacity c) : (m.setArea a bs).wf c = true := by
  rw [Memory.wf_iff] at h ⊢
  intro b
  by_cases hb : b = a
  · subst hb; simp [hl]
  · rw [Memory.area_setArea_ne _ _ hb, h]

theorem Memory.byte_eq (m : Memory) (a : Area) (off : Nat) :
    m.byte a off = ((m.area a)[off]?).getD (Config.freeByte off) := by
  simp [Memory.byte, List.getD_eq_getElem?_getD]

/-- A write leaves every byte outside the written ones alone. -/
theorem Memory.byte_write_outside (m : Memory) (a b : Area) (off : Nat) (bs : List Byte) (o : Nat)
    (h : b ≠ a ∨ o < off ∨ off + bs.length ≤ o) : (m.write a off bs).byte b o = m.byte b o := by
  by_cases hb : b = a
  · subst hb
    have h' := h.resolve_left (fun h => h rfl)
    rw [Memory.byte_eq, Memory.byte_eq, Memory.area_write_same, getElem?_writeAt_of_outside _ _ _ _ h']
  · rw [Memory.byte_eq, Memory.byte_eq, Memory.area_write_ne _ _ _ hb]

/-- A write that fits is read back. -/
theorem Memory.byte_write_inside (m : Memory) (a : Area) (off : Nat) (bs : List Byte) (k : Nat) (hk : k < bs.length)
    (hd : off + bs.length ≤ (m.area a).length) : (m.write a off bs).byte a (off + k) = bs[k] := by
  rw [Memory.byte_eq, Memory.area_write_same, getElem?_writeAt_of_inside _ _ _ _ hk hd]
  simp [hk]

/-- The first `off + len` bytes after a write that fits. -/
theorem take_writeAt (d : List Byte) (off : Nat) (bs : List Byte) (hd : off + bs.length ≤ d.length) :
    (writeAt d off bs).take (off + bs.length) = d.take off ++ bs := by
  have h : (d.take off ++ bs).length = off + bs.length := by simp; omega
  rw [writeAt_eq_append _ _ _ hd, ← h, List.take_left]

end Sys2Proof.Machine
end

