-- ==== Sys2Proof/Laws/State.lean ====
section
/-! SUPPORT. What each named write of the state leaves in each part of it: one lemma per part and write, true by rfl, so that no
proof unfolds a record update. -/

namespace Sys2Proof.Machine

@[simp] theorem State.setMem_cfg (m : Memory) (s : State) : (s.setMem m).cfg = s.cfg := rfl
@[simp] theorem State.setMem_S (m : Memory) (s : State) : (s.setMem m).S = { s.S with mem := m } := rfl
@[simp] theorem State.setMem_T (m : Memory) (s : State) : (s.setMem m).T = s.T := rfl
@[simp] theorem State.setMem_H (m : Memory) (s : State) : (s.setMem m).H = s.H := rfl
@[simp] theorem State.setMem_C (m : Memory) (s : State) : (s.setMem m).C = s.C := rfl
@[simp] theorem State.setMem_ret (m : Memory) (s : State) : (s.setMem m).ret = s.ret := rfl
@[simp] theorem State.setMem_draws (m : Memory) (s : State) : (s.setMem m).draws = s.draws := rfl
@[simp] theorem State.setMem_sched (m : Memory) (s : State) : (s.setMem m).sched = s.sched := rfl

@[simp] theorem State.setCs_cfg (v : ControlState) (s : State) : (s.setCs v).cfg = s.cfg := rfl
@[simp] theorem State.setCs_S (v : ControlState) (s : State) : (s.setCs v).S = { s.S with cs := v } := rfl
@[simp] theorem State.setCs_T (v : ControlState) (s : State) : (s.setCs v).T = s.T := rfl
@[simp] theorem State.setCs_H (v : ControlState) (s : State) : (s.setCs v).H = s.H := rfl
@[simp] theorem State.setCs_C (v : ControlState) (s : State) : (s.setCs v).C = s.C := rfl
@[simp] theorem State.setCs_ret (v : ControlState) (s : State) : (s.setCs v).ret = s.ret := rfl
@[simp] theorem State.setCs_draws (v : ControlState) (s : State) : (s.setCs v).draws = s.draws := rfl
@[simp] theorem State.setCs_sched (v : ControlState) (s : State) : (s.setCs v).sched = s.sched := rfl

@[simp] theorem State.setMain_cfg (v : MainCtx) (s : State) : (s.setMain v).cfg = s.cfg := rfl
@[simp] theorem State.setMain_S (v : MainCtx) (s : State) : (s.setMain v).S = s.S := rfl
@[simp] theorem State.setMain_T (v : MainCtx) (s : State) : (s.setMain v).T = s.T := rfl
@[simp] theorem State.setMain_H (v : MainCtx) (s : State) : (s.setMain v).H = s.H := rfl
@[simp] theorem State.setMain_C (v : MainCtx) (s : State) : (s.setMain v).C = { s.C with main := v } := rfl
@[simp] theorem State.setMain_ret (v : MainCtx) (s : State) : (s.setMain v).ret = s.ret := rfl
@[simp] theorem State.setMain_draws (v : MainCtx) (s : State) : (s.setMain v).draws = s.draws := rfl
@[simp] theorem State.setMain_sched (v : MainCtx) (s : State) : (s.setMain v).sched = s.sched := rfl

@[simp] theorem State.setMasked_cfg (v : Bool) (s : State) : (s.setMasked v).cfg = s.cfg := rfl
@[simp] theorem State.setMasked_S (v : Bool) (s : State) : (s.setMasked v).S = s.S := rfl
@[simp] theorem State.setMasked_T (v : Bool) (s : State) : (s.setMasked v).T = s.T := rfl
@[simp] theorem State.setMasked_H (v : Bool) (s : State) : (s.setMasked v).H = s.H := rfl
@[simp] theorem State.setMasked_C (v : Bool) (s : State) : (s.setMasked v).C = { s.C with masked := v } := rfl
@[simp] theorem State.setMasked_ret (v : Bool) (s : State) : (s.setMasked v).ret = s.ret := rfl
@[simp] theorem State.setMasked_draws (v : Bool) (s : State) : (s.setMasked v).draws = s.draws := rfl
@[simp] theorem State.setMasked_sched (v : Bool) (s : State) : (s.setMasked v).sched = s.sched := rfl

@[simp] theorem State.returning_cfg (v : Ret) (s : State) : (s.returning v).cfg = s.cfg := rfl
@[simp] theorem State.returning_S (v : Ret) (s : State) : (s.returning v).S = s.S := rfl
@[simp] theorem State.returning_T (v : Ret) (s : State) : (s.returning v).T = s.T := rfl
@[simp] theorem State.returning_H (v : Ret) (s : State) : (s.returning v).H = s.H := rfl
@[simp] theorem State.returning_C (v : Ret) (s : State) : (s.returning v).C = s.C := rfl
@[simp] theorem State.returning_ret (v : Ret) (s : State) : (s.returning v).ret = v := rfl
@[simp] theorem State.returning_draws (v : Ret) (s : State) : (s.returning v).draws = s.draws := rfl
@[simp] theorem State.returning_sched (v : Ret) (s : State) : (s.returning v).sched = s.sched := rfl

@[simp] theorem State.emit_cfg (e : LogEntry) (s : State) : (s.emit e).cfg = s.cfg := rfl
@[simp] theorem State.emit_S (e : LogEntry) (s : State) : (s.emit e).S = s.S := rfl
@[simp] theorem State.emit_T (e : LogEntry) (s : State) : (s.emit e).T = { s.T with log := s.T.log ++ [e] } := rfl
@[simp] theorem State.emit_H (e : LogEntry) (s : State) : (s.emit e).H = s.H := rfl
@[simp] theorem State.emit_C (e : LogEntry) (s : State) : (s.emit e).C = s.C := rfl
@[simp] theorem State.emit_ret (e : LogEntry) (s : State) : (s.emit e).ret = s.ret := rfl
@[simp] theorem State.emit_draws (e : LogEntry) (s : State) : (s.emit e).draws = s.draws := rfl
@[simp] theorem State.emit_sched (e : LogEntry) (s : State) : (s.emit e).sched = s.sched := rfl

@[simp] theorem State.drawn_cfg (s : State) : (s.drawn).cfg = s.cfg := rfl
@[simp] theorem State.drawn_S (s : State) : (s.drawn).S = s.S := rfl
@[simp] theorem State.drawn_T (s : State) : (s.drawn).T = s.T := rfl
@[simp] theorem State.drawn_H (s : State) : (s.drawn).H = s.H := rfl
@[simp] theorem State.drawn_C (s : State) : (s.drawn).C = s.C := rfl
@[simp] theorem State.drawn_ret (s : State) : (s.drawn).ret = s.ret := rfl
@[simp] theorem State.drawn_draws (s : State) : (s.drawn).draws = if s.cfg.mayRefuse then s.draws + 1 else s.draws := rfl
@[simp] theorem State.drawn_sched (s : State) : (s.drawn).sched = s.sched := rfl

@[simp] theorem State.popTurn_cfg (s : State) : (s.popTurn).cfg = s.cfg := rfl
@[simp] theorem State.popTurn_S (s : State) : (s.popTurn).S = s.S := rfl
@[simp] theorem State.popTurn_T (s : State) : (s.popTurn).T = s.T := rfl
@[simp] theorem State.popTurn_H (s : State) : (s.popTurn).H = s.H := rfl
@[simp] theorem State.popTurn_C (s : State) : (s.popTurn).C = s.C := rfl
@[simp] theorem State.popTurn_ret (s : State) : (s.popTurn).ret = s.ret := rfl
@[simp] theorem State.popTurn_draws (s : State) : (s.popTurn).draws = s.draws := rfl
@[simp] theorem State.popTurn_sched (s : State) : (s.popTurn).sched = s.sched.tail := rfl

@[simp] theorem refuseWord_cfg (s : State) : (refuseWord s).cfg = s.cfg := rfl
@[simp] theorem refuseWord_S (s : State) : (refuseWord s).S = { s.S with refused := true } := rfl
@[simp] theorem refuseWord_T (s : State) : (refuseWord s).T = s.T := rfl
@[simp] theorem refuseWord_H (s : State) : (refuseWord s).H = s.H := rfl
@[simp] theorem refuseWord_C (s : State) : (refuseWord s).C = s.C := rfl
@[simp] theorem refuseWord_ret (s : State) : (refuseWord s).ret = s.ret := rfl
@[simp] theorem refuseWord_draws (s : State) : (refuseWord s).draws = s.draws := rfl
@[simp] theorem refuseWord_sched (s : State) : (refuseWord s).sched = s.sched := rfl

@[simp] theorem raiseFault_cfg (r : FaultReason) (s : State) : (raiseFault r s).cfg = s.cfg := rfl
@[simp] theorem raiseFault_S (r : FaultReason) (s : State) : (raiseFault r s).S = { s.S with fault := some r } := rfl
@[simp] theorem raiseFault_T (r : FaultReason) (s : State) : (raiseFault r s).T = s.T := rfl
@[simp] theorem raiseFault_H (r : FaultReason) (s : State) : (raiseFault r s).H = s.H := rfl
@[simp] theorem raiseFault_C (r : FaultReason) (s : State) : (raiseFault r s).C = s.C := rfl
@[simp] theorem raiseFault_ret (r : FaultReason) (s : State) : (raiseFault r s).ret = s.ret := rfl
@[simp] theorem raiseFault_draws (r : FaultReason) (s : State) : (raiseFault r s).draws = s.draws := rfl
@[simp] theorem raiseFault_sched (r : FaultReason) (s : State) : (raiseFault r s).sched = s.sched := rfl

@[simp] theorem rearmReceive_cfg (s : State) : (rearmReceive s).cfg = s.cfg := rfl
@[simp] theorem rearmReceive_S (s : State) : (rearmReceive s).S = s.S := rfl
@[simp] theorem rearmReceive_T (s : State) : (rearmReceive s).T = { s.T with rxArmed := true, log := s.T.log ++ [.rearm] } := rfl
@[simp] theorem rearmReceive_H (s : State) : (rearmReceive s).H = s.H := rfl
@[simp] theorem rearmReceive_C (s : State) : (rearmReceive s).C = s.C := rfl
@[simp] theorem rearmReceive_ret (s : State) : (rearmReceive s).ret = s.ret := rfl
@[simp] theorem rearmReceive_draws (s : State) : (rearmReceive s).draws = s.draws := rfl
@[simp] theorem rearmReceive_sched (s : State) : (rearmReceive s).sched = s.sched := rfl

@[simp] theorem stallControlPipe_cfg (s : State) : (stallControlPipe s).cfg = s.cfg := rfl
@[simp] theorem stallControlPipe_S (s : State) : (stallControlPipe s).S = s.S := rfl
@[simp] theorem stallControlPipe_T (s : State) : (stallControlPipe s).T = { s.T with ep0Req := none, log := s.T.log ++ [.stall] } := rfl
@[simp] theorem stallControlPipe_H (s : State) : (stallControlPipe s).H = s.H := rfl
@[simp] theorem stallControlPipe_C (s : State) : (stallControlPipe s).C = s.C := rfl
@[simp] theorem stallControlPipe_ret (s : State) : (stallControlPipe s).ret = s.ret := rfl
@[simp] theorem stallControlPipe_draws (s : State) : (stallControlPipe s).draws = s.draws := rfl
@[simp] theorem stallControlPipe_sched (s : State) : (stallControlPipe s).sched = s.sched := rfl

@[simp] theorem sendZeroLengthStatus_cfg (s : State) : (sendZeroLengthStatus s).cfg = s.cfg := rfl
@[simp] theorem sendZeroLengthStatus_S (s : State) : (sendZeroLengthStatus s).S = s.S := rfl
@[simp] theorem sendZeroLengthStatus_T (s : State) : (sendZeroLengthStatus s).T = { s.T with log := s.T.log ++ [.zlStatus] } := rfl
@[simp] theorem sendZeroLengthStatus_H (s : State) : (sendZeroLengthStatus s).H = s.H := rfl
@[simp] theorem sendZeroLengthStatus_C (s : State) : (sendZeroLengthStatus s).C = s.C := rfl
@[simp] theorem sendZeroLengthStatus_ret (s : State) : (sendZeroLengthStatus s).ret = s.ret := rfl
@[simp] theorem sendZeroLengthStatus_draws (s : State) : (sendZeroLengthStatus s).draws = s.draws := rfl
@[simp] theorem sendZeroLengthStatus_sched (s : State) : (sendZeroLengthStatus s).sched = s.sched := rfl

@[simp] theorem requestDataStage_cfg (n : Nat) (s : State) : (requestDataStage n s).cfg = s.cfg := rfl
@[simp] theorem requestDataStage_S (n : Nat) (s : State) : (requestDataStage n s).S = s.S := rfl
@[simp] theorem requestDataStage_T (n : Nat) (s : State) : (requestDataStage n s).T = { s.T with ep0Req := some n, log := s.T.log ++ [.dataStage n] } := rfl
@[simp] theorem requestDataStage_H (n : Nat) (s : State) : (requestDataStage n s).H = s.H := rfl
@[simp] theorem requestDataStage_C (n : Nat) (s : State) : (requestDataStage n s).C = s.C := rfl
@[simp] theorem requestDataStage_ret (n : Nat) (s : State) : (requestDataStage n s).ret = s.ret := rfl
@[simp] theorem requestDataStage_draws (n : Nat) (s : State) : (requestDataStage n s).draws = s.draws := rfl
@[simp] theorem requestDataStage_sched (n : Nat) (s : State) : (requestDataStage n s).sched = s.sched := rfl

@[simp] theorem sendControlData_cfg (bs : List Byte) (s : State) : (sendControlData bs s).cfg = s.cfg := rfl
@[simp] theorem sendControlData_S (bs : List Byte) (s : State) : (sendControlData bs s).S = s.S := rfl
@[simp] theorem sendControlData_T (bs : List Byte) (s : State) : (sendControlData bs s).T = { s.T with log := s.T.log ++ [.ctrlIn bs] } := rfl
@[simp] theorem sendControlData_H (bs : List Byte) (s : State) : (sendControlData bs s).H = s.H := rfl
@[simp] theorem sendControlData_C (bs : List Byte) (s : State) : (sendControlData bs s).C = s.C := rfl
@[simp] theorem sendControlData_ret (bs : List Byte) (s : State) : (sendControlData bs s).ret = s.ret := rfl
@[simp] theorem sendControlData_draws (bs : List Byte) (s : State) : (sendControlData bs s).draws = s.draws := rfl
@[simp] theorem sendControlData_sched (bs : List Byte) (s : State) : (sendControlData bs s).sched = s.sched := rfl

@[simp] theorem completeOne_cfg (s : State) : (completeOne s).cfg = s.cfg := rfl
@[simp] theorem completeOne_S (s : State) : (completeOne s).S = { s.S with txInflight := s.S.txInflight - 1 } := rfl
@[simp] theorem completeOne_T (s : State) : (completeOne s).T = s.T := rfl
@[simp] theorem completeOne_H (s : State) : (completeOne s).H = s.H := rfl
@[simp] theorem completeOne_C (s : State) : (completeOne s).C = s.C := rfl
@[simp] theorem completeOne_ret (s : State) : (completeOne s).ret = s.ret := rfl
@[simp] theorem completeOne_draws (s : State) : (completeOne s).draws = s.draws := rfl
@[simp] theorem completeOne_sched (s : State) : (completeOne s).sched = s.sched := rfl

end Sys2Proof.Machine
end

