-- ==== Sys2Proof/Laws/Ops.lean ====
section
/-! SUPPORT. One lemma per shared operation that says once everything it can do: the outcomes of an admitted step, of a transport
event, of an enqueue and of a flush. -/

namespace Sys2Proof.Machine

theorem commit_next {s t : State} {x : Except FaultReason State} (h : commit s x = .next t) :
    x = .ok t ∨ ∃ r, x = .error r ∧ t = raiseFault r s := by
  cases x with
  | ok u => exact .inl (by simpa [commit] using h)
  | error r => exact .inr ⟨r, rfl, by simpa [commit] using h.symm⟩

/-- An admitted operation always answers a next state. -/
theorem commit_isNext (s : State) (x : Except FaultReason State) : ∃ t, commit s x = .next t := by
  cases x <;> exact ⟨_, rfl⟩

theorem whileRunning_next {s t : State} {k : Out} (h : whileRunning s k = .next t) : s.S.fault = none ∧ k = .next t := by
  unfold whileRunning at h
  split at h
  · cases h
  · exact ⟨by assumption, h⟩

theorem whileRunning_none {s : State} (h : s.S.fault = none) (k : Out) : whileRunning s k = k := by
  simp [whileRunning, h]

theorem whileRunning_some {s : State} {r : FaultReason} (h : s.S.fault = some r) (k : Out) :
    whileRunning s k = .fault (.stopped r) := by simp [whileRunning, h]

theorem asMain_next {s t : State} {b : Body} (h : asMain s b = .next t) :
    s.S.fault = none ∧ mainFree s = true ∧
      (b (s.setMain .ready) = .ok t ∨ ∃ r, b (s.setMain .ready) = .error r ∧ t = raiseFault r s) := by
  obtain ⟨hf, h⟩ := whileRunning_next h
  split at h
  · exact ⟨hf, by assumption, commit_next h⟩
  · cases h

theorem asIrq_next {s t : State} {b : Body} (h : asIrq s b = .next t) :
    s.S.fault = none ∧ irqOpen s = true ∧ (b s = .ok t ∨ ∃ r, b s = .error r ∧ t = raiseFault r s) := by
  obtain ⟨hf, h⟩ := whileRunning_next h
  split at h
  · exact ⟨hf, by assumption, commit_next h⟩
  · cases h

theorem asEnv_next {s t u : State} {ok : Bool} {g : Guard} (h : asEnv s ok g u = .next t) :
    s.S.fault = none ∧ ok = true ∧ t = u := by
  obtain ⟨hf, h⟩ := whileRunning_next h
  split at h
  · exact ⟨hf, by assumption, by simpa using h.symm⟩
  · cases h

theorem asEnvAlways_next {s t u : State} (h : asEnvAlways s u = .next t) : s.S.fault = none ∧ t = u := by
  obtain ⟨hf, h⟩ := whileRunning_next h
  exact ⟨hf, by simpa using h.symm⟩

/-- What an application-port request can do: run from the state it enters, or mark a fault on the state before it. -/
theorem asApp_next {ctx : Ctx} {s t : State} {b : Body} (h : asApp ctx s b = .next t) :
    s.S.fault = none ∧
      ∃ u, (u = s ∨ u = s.setMain .ready) ∧ (b u = .ok t ∨ ∃ r, b u = .error r ∧ t = raiseFault r s) := by
  cases ctx with
  | main =>
    obtain ⟨hf, -, h⟩ := asMain_next h
    exact ⟨hf, _, .inr rfl, h⟩
  | isr =>
    obtain ⟨hf, -, h⟩ := asIrq_next h
    exact ⟨hf, _, .inl rfl, h⟩

theorem requireInit_ok {s t : State} {b : Body} (h : requireInit b s = .ok t) : s.S.init = true ∧ b s = .ok t := by
  unfold requireInit at h
  split at h
  · exact ⟨by assumption, h⟩
  · cases h

theorem requireInit_of_init {s : State} (b : Body) (h : s.S.init = true) : requireInit b s = b s := by
  simp [requireInit, h]

/-- What a transport event can do. -/
theorem onEvent_next {α : Type} {latch : Option α} {g : Guard} {s t : State} {b : α → Body}
    (h : onEvent latch g s b = .next t) :
    s.S.fault = none ∧ irqOpen s = true ∧
      ∃ a, latch = some a ∧ ((s.S.init = true ∧ b a s = .ok t) ∨ ∃ r, requireInit (b a) s = .error r ∧ t = raiseFault r s) := by
  obtain ⟨hf, h⟩ := whileRunning_next h
  cases latch with
  | none => cases h
  | some a =>
    dsimp only at h
    split at h
    · refine ⟨hf, by assumption, a, rfl, ?_⟩
      rcases commit_next h with h | h
      · exact .inl (requireInit_ok h)
      · exact .inr h
    · cases h

/-- What an enqueue can do: accept and log one packet, or nothing but the draw. -/
theorem enqueueTransmit_cases (ep : InEndpoint) (bs : List Byte) (m : ToggleMode) (s : State) :
    (endpointFree ep s = true ∧ enqueueTransmit ep bs m s = (true, accept ep bs s.drawn)) ∨
      (endpointFree ep s = false ∧ enqueueTransmit ep bs m s = (false, s.drawn)) := by
  cases h : endpointFree ep s
  · exact .inr ⟨rfl, by simp [enqueueTransmit, h]⟩
  · exact .inl ⟨rfl, by simp [enqueueTransmit, h]⟩

/-- What a flush can do: nothing is staged, one packet is handed over, or the transport is busy. -/
theorem flushCore_cases (s : State) :
    (s.S.txFill = 0 ∧ flushCore s = s) ∨
      (s.S.txFill ≠ 0 ∧ endpointFree .bulkIn s = true ∧
        flushCore s =
          shiftStaged (flushLength s) (accept .bulkIn (s.S.mem.read .txData 0 (flushLength s)) s.drawn)) ∨
      (s.S.txFill ≠ 0 ∧ endpointFree .bulkIn s = false ∧ flushCore s = s.drawn) := by
  by_cases h0 : s.S.txFill = 0
  · exact .inl ⟨h0, by simp [flushCore, h0]⟩
  · rcases enqueueTransmit_cases .bulkIn (s.S.mem.read .txData 0 (flushLength s)) .auto s with ⟨hf, he⟩ | ⟨hf, he⟩
    · exact .inr (.inl ⟨h0, hf, by simp [flushCore, h0, he]⟩)
    · exact .inr (.inr ⟨h0, hf, by simp [flushCore, h0, he]⟩)

/-- Taking a byte: the three ways a READ with a frame pending can end are one release or none. -/
theorem readTake_cases (s : State) :
    (s.S.rxCur + 1 = s.S.rxLen ∧
        readTake s =
          { s with
            S := { s.S with rxCur := s.S.rxCur + 1, rxPend := false }
            T := { s.T with rxArmed := true, log := s.T.log ++ [.rearm] }
            ret := .byte (s.S.mem.byte .rxData s.S.rxCur) }) ∨
      (s.S.rxCur + 1 ≠ s.S.rxLen ∧
        readTake s =
          { s with
            S := { s.S with rxCur := s.S.rxCur + 1 }
            ret := .byte (s.S.mem.byte .rxData s.S.rxCur) }) := by
  by_cases h : s.S.rxCur + 1 = s.S.rxLen
  · exact .inl ⟨h, by simp [readTake, h, rearmReceive, State.returning]⟩
  · exact .inr ⟨h, by simp [readTake, h, State.returning]⟩

/-- What a step can do: run the decoded operation of the next turn, resume MAIN, or mark a rejected word. -/
theorem step_next {s t : State} (h : step s = .next t) :
    s.cfg.valid = true ∧ s.S.fault = none ∧
      ((∃ a bs rest i tail, s.sched = .request a bs :: rest ∧ decode a bs = .ok (i, tail) ∧ exec i s.popTurn = .next t) ∨
        (∃ rest, s.sched = .resume :: rest ∧ resumeMain s.popTurn = .next t) ∨
        (∃ a bs rest e, s.sched = .request a bs :: rest ∧ decode a bs = .error e ∧ t = refuseWord s.popTurn)) := by
  unfold step at h
  unfold fetch at h
  by_cases hv : s.cfg.valid = true
  · rw [if_pos hv] at h
    refine ⟨hv, ?_⟩
    cases hf : s.S.fault with
    | some r => simp [hf] at h
    | none =>
      refine ⟨rfl, ?_⟩
      simp only [hf] at h
      cases hs : s.sched with
      | nil => simp [hs] at h
      | cons x rest =>
        simp only [hs] at h
        cases x with
        | resume => exact .inr (.inl ⟨rest, rfl, h⟩)
        | request a bs =>
          cases hd : decode a bs with
          | ok p =>
            obtain ⟨i, tail⟩ := p
            simp only [hd] at h
            exact .inl ⟨a, bs, rest, i, tail, rfl, hd, h⟩
          | error e =>
            simp only [hd] at h
            exact .inr (.inr ⟨a, bs, rest, e, rfl, hd, by simpa using h.symm⟩)
  · rw [if_neg hv] at h
    cases h

end Sys2Proof.Machine
end

