-- ==== Sys2Proof/Laws/Exec.lean ====
section
/-! SUPPORT. What each operation can do, said once: an operation that answers a next state either marked a fault on the state before it,
or had the effect listed here. Every statement about all operations rests on these two lemmas. -/

namespace Sys2Proof.Machine

/-- The states a request can run in: `s` itself for interrupt context, `s` with MAIN ready for MAIN. -/
def Enters (ctx : Ctx) (s u : State) : Prop := ctxOpen ctx s = true ∧ u = entered ctx s

/-- What each operation may make of `s` when it raises no fault. -/
def Effect (i : Instr) (s t : State) : Prop :=
  match i with
  | .read ctx =>
    s.S.init = true ∧ ∃ u, Enters ctx s u ∧
      ((s.S.rxPend = true ∧ t = readTake u) ∨ (s.S.rxPend = false ∧ t = u.setMain .heldRead))
  | .hasData ctx => s.S.init = true ∧ ∃ u, Enters ctx s u ∧ t = u.returning (.bool s.S.rxPend)
  | .discard ctx => s.S.init = true ∧ ∃ u, Enters ctx s u ∧ t = discardFrame u
  | .availableSpace ctx => s.S.init = true ∧ ∃ u, Enters ctx s u ∧ t = u.returning (.nat (availableSpace s))
  | .writeBlocking ctx b =>
    s.S.init = true ∧ ∃ u, Enters ctx s u ∧
      ((s.S.txFill < s.cfg.txBufSize ∧ t = writeStaged b u) ∨ (s.cfg.txBufSize ≤ s.S.txFill ∧ t = u.setMain (.heldWrite b)))
  | .writeFast ctx b => s.S.init = true ∧ ∃ u, Enters ctx s u ∧ t = (stage b u).returning .nothing
  | .writeBlock ctx bs => s.S.init = true ∧ ∃ u, Enters ctx s u ∧ t = writeBlockRun bs u
  | .flush ctx => s.S.init = true ∧ ∃ u, Enters ctx s u ∧ t = (flushCore u).returning .nothing
  | .isEmpty ctx => s.S.init = true ∧ ∃ u, Enters ctx s u ∧ t = u.returning (.bool (txEmpty s))
  | .sendSerialState ctx st => s.S.init = true ∧ ∃ u, Enters ctx s u ∧ t = notifySerialState st u
  | .getLineCodingApp ctx => s.S.init = true ∧ ∃ u, Enters ctx s u ∧ t = u.returning (.bytes (s.S.mem.read .lc 0 7))
  | .getCarrier ctx => s.S.init = true ∧ ∃ u, Enters ctx s u ∧ t = u.returning (.carrier s.S.carrierDte s.S.carrierAct)
  | .getBreak ctx => s.S.init = true ∧ ∃ u, Enters ctx s u ∧ t = u.returning (.word s.S.brk)
  | .isConnected ctx => s.S.init = true ∧ ∃ u, Enters ctx s u ∧ t = u.returning (.bool s.S.conn)
  | .initializeBlock ctx => ∃ u, Enters ctx s u ∧ t = (initializedState u).returning .nothing
  | .onSetupReceived =>
    s.S.init = true ∧ irqOpen s = true ∧ ∃ p, s.T.setupLatch = some p ∧
      t = runRequest p (State.setCs .idle { s with T := { s.T with setupLatch := none } })
  | .onDataStageComplete =>
    s.S.init = true ∧ irqOpen s = true ∧ ∃ d, s.T.dsLatch = some d ∧
      ((s.S.cs = .awaitingEncapsulatedCommand ∧ d.length ≤ 8 ∧
          t = finishEncap d.length (storeEncap d { s with T := { s.T with dsLatch := none } })) ∨
        (s.S.cs = .awaitingLineCoding ∧ d.length = 7 ∧ t = storeLineCoding d { s with T := { s.T with dsLatch := none } }) ∨
        (s.S.cs = .awaitingZeroLengthAck ∧
          t = (sendZeroLengthStatus { s with T := { s.T with dsLatch := none } }).setCs .idle) ∨
        (s.S.cs = .idle ∧ t = { s with T := { s.T with dsLatch := none } }))
  | .onPacketReceived =>
    s.S.init = true ∧ irqOpen s = true ∧ ∃ d, s.T.rxLatch = some d ∧ d.length ≤ s.cfg.rxBufSize ∧
      ((d = [] ∧ t = rearmReceive { s with T := { s.T with rxLatch := none } }) ∨
        (1 ≤ d.length ∧ t = storeFrame d { s with T := { s.T with rxLatch := none } }))
  | .onTransmitComplete =>
    s.S.init = true ∧ irqOpen s = true ∧ 0 < s.T.bulkInAcked ∧
      t = flushCore (completeOne { s with T := { s.T with bulkInAcked := s.T.bulkInAcked - 1 } })
  | .maskIrq => mainFree s = true ∧ t = (s.setMain .ready).setMasked true
  | .unmaskIrq => mainFree s = true ∧ t = (s.setMain .ready).setMasked false
  | .poll => mainFree s = true ∧ t = (s.setMain .ready).setMain .polling
  | .busReset => t = { s with T := ⟨true, none, none, none, none, [], 0, [], s.T.log⟩ }
  | .hostSetup p => t = { s with T := { s.T with setupLatch := some p, ep0Req := none, dsLatch := none } }
  | .hostDataOut d =>
    s.T.ep0Req = some d.length ∧ s.T.dsLatch = none ∧ t = { s with T := { s.T with dsLatch := some d, ep0Req := none } }
  | .hostBulkOut d =>
    s.T.rxArmed = true ∧ s.T.rxLatch = none ∧ d.length ≤ s.cfg.rxBufSize ∧
      t = { s with T := { s.T with rxArmed := false, rxLatch := some d } }
  | .hostAckBulkIn => s.T.bulkInQ ≠ [] ∧ t = ackBulkIn s
  | .hostAckIntIn => s.T.intInQ ≠ [] ∧ t = ackIntIn s
  | .sendEncapsulatedCommand r => t = runSendEncapsulatedCommand r s
  | .getEncapsulatedCommand r => t = runGetEncapsulatedCommand r s
  | .setLineCoding r => t = runSetLineCoding r s
  | .getLineCoding r => t = runGetLineCoding r s
  | .setControlLineState r => t = runSetControlLineState r s
  | .sendBreak r => t = runSendBreak r s
  | .ctrlOther p => t = runCtrlOther p s

/-- Which operation raises which fault, and when. -/
def Raises (i : Instr) (s : State) : FaultReason → Prop
  | .notInitialized => needsInit i = true ∧ s.S.init = false
  | .blockingDeadlock =>
    (∃ ctx, i = .read ctx ∧ s.S.rxPend = false ∧ nonSuspendable ctx s = true) ∨
      ∃ ctx b, i = .writeBlocking ctx b ∧ s.cfg.txBufSize ≤ s.S.txFill ∧ nonSuspendable ctx s = true
  | .rxOversize => i = .onPacketReceived ∧ ∃ d, s.T.rxLatch = some d ∧ s.cfg.rxBufSize < d.length
  | .dataStageLength =>
    i = .onDataStageComplete ∧ ∃ d, s.T.dsLatch = some d ∧
      ((s.S.cs = .awaitingEncapsulatedCommand ∧ 8 < d.length) ∨ (s.S.cs = .awaitingLineCoding ∧ d.length ≠ 7))

@[simp] theorem entered_cfg (ctx : Ctx) (s : State) : (entered ctx s).cfg = s.cfg := by cases ctx <;> rfl
@[simp] theorem entered_S (ctx : Ctx) (s : State) : (entered ctx s).S = s.S := by cases ctx <;> rfl
@[simp] theorem entered_T (ctx : Ctx) (s : State) : (entered ctx s).T = s.T := by cases ctx <;> rfl
@[simp] theorem entered_H (ctx : Ctx) (s : State) : (entered ctx s).H = s.H := by cases ctx <;> rfl
@[simp] theorem entered_masked (ctx : Ctx) (s : State) : (entered ctx s).C.masked = s.C.masked := by cases ctx <;> rfl
@[simp] theorem entered_ret (ctx : Ctx) (s : State) : (entered ctx s).ret = s.ret := by cases ctx <;> rfl
@[simp] theorem entered_draws (ctx : Ctx) (s : State) : (entered ctx s).draws = s.draws := by cases ctx <;> rfl
@[simp] theorem entered_sched (ctx : Ctx) (s : State) : (entered ctx s).sched = s.sched := by cases ctx <;> rfl

@[simp] theorem nonSuspendable_entered (ctx ctx' : Ctx) (s : State) :
    nonSuspendable ctx (entered ctx' s) = nonSuspendable ctx s := by cases ctx' <;> rfl

/-- An application-port request that answers a next state ran in the state it enters, or marked a fault. -/
theorem asApp_enters {ctx : Ctx} {s t : State} {b : Body} (h : asApp ctx s b = .next t) :
    s.S.fault = none ∧ Enters ctx s (entered ctx s) ∧
      (b (entered ctx s) = .ok t ∨ ∃ r, b (entered ctx s) = .error r ∧ t = raiseFault r s) := by
  cases ctx with
  | main =>
    obtain ⟨hf, ho, h⟩ := asMain_next h
    exact ⟨hf, ⟨ho, rfl⟩, h⟩
  | isr =>
    obtain ⟨hf, ho, h⟩ := asIrq_next h
    exact ⟨hf, ⟨ho, rfl⟩, h⟩

/-- The same for a request that needs an initialized block. -/
theorem asApp_init_enters {ctx : Ctx} {s t : State} {b : Body} (h : asApp ctx s (requireInit b) = .next t) :
    s.S.fault = none ∧ Enters ctx s (entered ctx s) ∧
      ((s.S.init = true ∧ b (entered ctx s) = .ok t) ∨
        (∃ r, t = raiseFault r s ∧
          ((r = .notInitialized ∧ s.S.init = false) ∨ (s.S.init = true ∧ b (entered ctx s) = .error r)))) := by
  obtain ⟨hf, hu, h⟩ := asApp_enters h
  refine ⟨hf, hu, ?_⟩
  simp only [requireInit, entered_S] at h
  cases hi : s.S.init <;> simp only [hi, if_true, Bool.false_eq_true, if_false] at h
  · right
    rcases h with h | ⟨r, hr, ht⟩
    · cases h
    · cases hr
      exact ⟨_, ht, .inl ⟨rfl, rfl⟩⟩
  · rcases h with h | ⟨r, hr, ht⟩
    · exact .inl ⟨rfl, h⟩
    · exact .inr ⟨r, ht, .inr ⟨rfl, hr⟩⟩

/-- An application-port request in a state that admits it. -/
theorem asApp_ready {ctx : Ctx} {s : State} (h : AppReady ctx s) (b : Body) :
    asApp ctx s (requireInit b) = commit s (b (entered ctx s)) := by
  obtain ⟨hf, ho, hi⟩ := h
  cases ctx
  · simp only [ctxOpen] at ho
    simp [asApp, asMain, whileRunning_none hf, ho, requireInit, hi, entered]
  · simp only [ctxOpen] at ho
    simp [asApp, asIrq, whileRunning_none hf, ho, requireInit, hi, entered]

/-- A transport event in a state that admits it. -/
theorem onEvent_ready {α : Type} {s : State} {latch : Option α} {g : Guard} {a : α} (h : EventReady s) (b : α → Body)
    (hl : latch = some a) : onEvent latch g s b = commit s (b a s) := by
  obtain ⟨hf, ho, hi⟩ := h
  simp [onEvent, whileRunning_none hf, hl, ho, requireInit, hi]

/-- The same for a transport event, with what the fault was. -/
theorem onEvent_cases {α : Type} {s t : State} {latch : Option α} {g : Guard} {b : α → Body}
    (h : onEvent latch g s b = .next t) :
    s.S.fault = none ∧ irqOpen s = true ∧ ∃ a, latch = some a ∧
      ((s.S.init = true ∧ b a s = .ok t) ∨
        (∃ r, t = raiseFault r s ∧ ((r = .notInitialized ∧ s.S.init = false) ∨ (s.S.init = true ∧ b a s = .error r)))) := by
  obtain ⟨hf, ho, a, hl, h⟩ := onEvent_next h
  refine ⟨hf, ho, a, hl, ?_⟩
  rcases h with h | ⟨r, hr, rfl⟩
  · exact .inl h
  · refine .inr ⟨r, rfl, ?_⟩
    unfold requireInit at hr
    split at hr
    · exact .inr ⟨by assumption, hr⟩
    · cases hr; exact .inl ⟨rfl, by simpa using ‹¬ s.S.init = true›⟩

/-- An event's latch is a guard: with a counter in place of a latch. -/
theorem someIf {p : Prop} [Decidable p] {a : Unit} (h : (if p then some () else none) = some a) : p := by
  split at h
  · assumption
  · cases h

/-- What an operation that answers a next state did: it marked a fault on the state before it, for the reason `Raises` names, or had its
`Effect`. -/
theorem exec_next {i : Instr} {s t : State} (h : exec i s = .next t) :
    (∃ r, Raises i s r ∧ t = raiseFault r s) ∨ Effect i s t := by
  cases i
  case read ctx =>
    obtain ⟨hf, hu, ⟨hi, h⟩ | ⟨r, rfl, ⟨rfl, hi⟩ | ⟨hi, h⟩⟩⟩ := asApp_init_enters h
    · right
      refine ⟨hi, _, hu, ?_⟩
      simp only [readBody, entered_S] at h
      cases hp : s.S.rxPend <;> simp only [hp, if_true, Bool.false_eq_true, if_false] at h
      · split at h
        · cases h
        · exact .inr ⟨rfl, by simpa using h.symm⟩
      · exact .inl ⟨rfl, by simpa using h.symm⟩
    · exact .inl ⟨.notInitialized, ⟨rfl, hi⟩, rfl⟩
    · left
      simp only [readBody, entered_S, nonSuspendable_entered] at h
      split at h
      · cases h
      · rename_i hp
        split at h
        · cases h
          exact ⟨.blockingDeadlock, .inl ⟨_, rfl, by simpa using hp, by assumption⟩, rfl⟩
        · cases h
  case writeBlocking ctx b =>
    obtain ⟨hf, hu, ⟨hi, h⟩ | ⟨r, rfl, ⟨rfl, hi⟩ | ⟨hi, h⟩⟩⟩ := asApp_init_enters h
    · right
      refine ⟨hi, _, hu, ?_⟩
      simp only [writeBlockingBody, txHasRoom, entered_S, entered_cfg, decide_eq_true_eq] at h
      split at h
      · exact .inl ⟨by assumption, by simpa using h.symm⟩
      · split at h
        · cases h
        · exact .inr ⟨by omega, by simpa using h.symm⟩
    · exact .inl ⟨.notInitialized, ⟨rfl, hi⟩, rfl⟩
    · left
      simp only [writeBlockingBody, txHasRoom, entered_S, entered_cfg, decide_eq_true_eq, nonSuspendable_entered] at h
      split at h
      · cases h
      · split at h
        · cases h
          exact ⟨.blockingDeadlock, .inr ⟨_, _, rfl, by omega, by assumption⟩, rfl⟩
        · cases h
  case initializeBlock ctx =>
    obtain ⟨hf, hu, h | ⟨r, h, -⟩⟩ := asApp_enters h
    · exact .inr ⟨_, hu, by simpa using h.symm⟩
    · cases h
  case onSetupReceived =>
    obtain ⟨hf, ho, p, hl, ⟨hi, h⟩ | ⟨r, rfl, ⟨rfl, hi⟩ | ⟨hi, h⟩⟩⟩ := onEvent_cases h
    · exact .inr ⟨hi, ho, p, hl, by simpa using h.symm⟩
    · exact .inl ⟨.notInitialized, ⟨rfl, hi⟩, rfl⟩
    · cases h
  case onDataStageComplete =>
    obtain ⟨hf, ho, d, hl, ⟨hi, h⟩ | ⟨r, rfl, ⟨rfl, hi⟩ | ⟨hi, h⟩⟩⟩ := onEvent_cases h
    · refine .inr ⟨hi, ho, d, hl, ?_⟩
      unfold completeDataStage at h
      cases hc : s.S.cs <;> simp only [hc] at h
      · exact .inr (.inr (.inr ⟨rfl, by simpa using h.symm⟩))
      · split at h
        · cases h
        · exact .inl ⟨rfl, by omega, by simpa using h.symm⟩
      · split at h
        · cases h
        · exact .inr (.inl ⟨rfl, by omega, by simpa using h.symm⟩)
      · exact .inr (.inr (.inl ⟨rfl, by simpa using h.symm⟩))
    · exact .inl ⟨.notInitialized, ⟨rfl, hi⟩, rfl⟩
    · left
      unfold completeDataStage at h
      cases hc : s.S.cs <;> simp only [hc] at h <;> try (solve | cases h)
      · split at h
        · cases h
          exact ⟨.dataStageLength, ⟨rfl, d, hl, .inl ⟨hc, by assumption⟩⟩, rfl⟩
        · cases h
      · split at h
        · cases h
          exact ⟨.dataStageLength, ⟨rfl, d, hl, .inr ⟨hc, by assumption⟩⟩, rfl⟩
        · cases h
  case onPacketReceived =>
    obtain ⟨hf, ho, d, hl, ⟨hi, h⟩ | ⟨r, rfl, ⟨rfl, hi⟩ | ⟨hi, h⟩⟩⟩ := onEvent_cases h
    · unfold receivePacket at h
      dsimp only at h
      split at h
      · cases h
      · refine .inr ⟨hi, ho, d, hl, by omega, ?_⟩
        split at h
        · exact .inl ⟨List.eq_nil_of_length_eq_zero (by assumption), by simpa using h.symm⟩
        · exact .inr ⟨by omega, by simpa using h.symm⟩
    · exact .inl ⟨.notInitialized, ⟨rfl, hi⟩, rfl⟩
    · unfold receivePacket at h
      dsimp only at h
      split at h
      · cases h
        exact .inl ⟨.rxOversize, ⟨rfl, d, hl, by assumption⟩, rfl⟩
      · split at h <;> cases h
  case onTransmitComplete =>
    obtain ⟨hf, ho, d, hl, ⟨hi, h⟩ | ⟨r, rfl, ⟨rfl, hi⟩ | ⟨hi, h⟩⟩⟩ := onEvent_cases h
    · exact .inr ⟨hi, ho, someIf hl, by simpa using h.symm⟩
    · exact .inl ⟨.notInitialized, ⟨rfl, hi⟩, rfl⟩
    · cases h
  case maskIrq =>
    change execMaskIrq s = _ at h
    unfold execMaskIrq at h
    obtain ⟨hf, ho, h | ⟨r, h, -⟩⟩ := asMain_next h
    · exact .inr ⟨ho, by simpa using h.symm⟩
    · cases h
  case unmaskIrq =>
    change execUnmaskIrq s = _ at h
    unfold execUnmaskIrq at h
    obtain ⟨hf, ho, h | ⟨r, h, -⟩⟩ := asMain_next h
    · exact .inr ⟨ho, by simpa using h.symm⟩
    · cases h
  case poll =>
    change execPoll s = _ at h
    unfold execPoll at h
    obtain ⟨hf, ho, h | ⟨r, h, -⟩⟩ := asMain_next h
    · exact .inr ⟨ho, by simpa using h.symm⟩
    · cases h
  case busReset => exact .inr (asEnvAlways_next h).2
  case hostSetup p => exact .inr (asEnvAlways_next h).2
  case hostDataOut d =>
    obtain ⟨-, hg, ht⟩ := asEnv_next h
    simp only [dataOutGuard, Bool.and_eq_true, beq_iff_eq] at hg
    exact .inr ⟨hg.1, hg.2, ht⟩
  case hostBulkOut d =>
    obtain ⟨-, hg, ht⟩ := asEnv_next h
    simp only [bulkOutGuard, Bool.and_eq_true, beq_iff_eq, decide_eq_true_eq] at hg
    exact .inr ⟨hg.1.1, hg.1.2, hg.2, ht⟩
  case hostAckBulkIn =>
    obtain ⟨-, hg, ht⟩ := asEnv_next h
    exact .inr ⟨by simpa using hg, ht⟩
  case hostAckIntIn =>
    obtain ⟨-, hg, ht⟩ := asEnv_next h
    exact .inr ⟨by simpa using hg, ht⟩
  case sendEncapsulatedCommand r => exact .inr (Host.Outcome.next.inj h).symm
  case getEncapsulatedCommand r => exact .inr (Host.Outcome.next.inj h).symm
  case setLineCoding r => exact .inr (Host.Outcome.next.inj h).symm
  case getLineCoding r => exact .inr (Host.Outcome.next.inj h).symm
  case setControlLineState r => exact .inr (Host.Outcome.next.inj h).symm
  case sendBreak r => exact .inr (Host.Outcome.next.inj h).symm
  case ctrlOther p => exact .inr (Host.Outcome.next.inj h).symm
  all_goals
    obtain ⟨hf, hu, ⟨hi, h⟩ | ⟨r, rfl, ⟨rfl, hi⟩ | ⟨hi, h⟩⟩⟩ := asApp_init_enters h
    · exact .inr ⟨hi, _, hu, by simpa [availableSpace, txEmpty] using h.symm⟩
    · exact .inl ⟨.notInitialized, ⟨rfl, hi⟩, rfl⟩
    · cases h

/-- Every operation but the second-level requests keeps running only without a fault mark. -/
theorem exec_next_running {i : Instr} {s t : State} (hr : i.isRequest = false) (h : exec i s = .next t) : s.S.fault = none := by
  cases i <;> first
    | (simp [Instr.isRequest] at hr; done)
    | exact (asApp_enters h).1
    | exact (onEvent_cases h).1
    | exact (asMain_next h).1
    | exact (asEnvAlways_next h).1
    | exact (asEnv_next h).1

/-- What RESUME can do. -/
theorem resumeMain_next {s t : State} (h : resumeMain s = .next t) :
    s.S.fault = none ∧
      ((s.C.main = .heldRead ∧ s.S.rxPend = true ∧ t = readTake (s.setMain .ready)) ∨
        ∃ b, s.C.main = .heldWrite b ∧ s.S.txFill < s.cfg.txBufSize ∧ t = writeStaged b (s.setMain .ready)) := by
  obtain ⟨hf, h⟩ := whileRunning_next h
  refine ⟨hf, ?_⟩
  cases hm : s.C.main <;> simp only [hm] at h
  · cases h
  · split at h
    · exact .inl ⟨rfl, by assumption, by simpa using h.symm⟩
    · cases h
  · split at h
    · exact .inr ⟨_, rfl, by simpa [txHasRoom] using ‹txHasRoom s = true›, by simpa using h.symm⟩
    · cases h
  · cases h

/-- What a step can do, by the operation of its turn. -/
theorem step_nextOp {s t : State} (h : step s = .next t) :
    s.S.fault = none ∧
      ((∃ i, nextOp s = some i ∧ exec i s.popTurn = .next t) ∨
        (nextOp s = none ∧ Resumes s ∧ resumeMain s.popTurn = .next t) ∨
        (nextOp s = none ∧ ¬ Resumes s ∧ t = refuseWord s.popTurn)) := by
  obtain ⟨-, hf, ⟨a, bs, rest, i, tail, hs, hd, he⟩ | ⟨rest, hs, hr⟩ | ⟨a, bs, rest, e, hs, hd, ht⟩⟩ := step_next h
  · exact ⟨hf, .inl ⟨i, by simp [nextOp, hs, hd], he⟩⟩
  · exact ⟨hf, .inr (.inl ⟨by simp [nextOp, hs], by simp [Resumes, hs], hr⟩)⟩
  · exact ⟨hf, .inr (.inr ⟨by simp [nextOp, hs, hd], by simp [Resumes, hs], ht⟩)⟩

/-- A turn that resumes MAIN runs no operation. -/
theorem nextOp_of_resumes {s : State} (h : Resumes s) : nextOp s = none := by
  unfold nextOp
  cases hs : s.sched with
  | nil => rfl
  | cons x _ =>
    obtain rfl : x = .resume := by simpa [Resumes, hs] using h
    rfl

/-- What every guarded step keeps holds at the end of a guarded run. -/
theorem RunsWhile.keeps {q p : State → Prop} (hp : ∀ s t, q s → p s → step s = .next t → p t) :
    ∀ {n : Nat} {s t : State}, RunsWhile q n s t → p s → p t
  | 0, _, _, h, hs => h ▸ hs
  | _ + 1, _, _, ⟨hq, _, hu, h⟩, hs => RunsWhile.keeps hp h (hp _ _ hq hs hu)

end Sys2Proof.Machine
end

