-- ==== Sys2Proof/Laws/Frames.lean ====
section
/-! SUPPORT. The frame of each composite effect: which parts of the state it may touch at all. A proof about a part that an effect does
not touch rewrites with these and never unfolds the effect. -/

namespace Sys2Proof.Machine

/-- A flush touches the staging buffer and its counts, the bulk IN queue, the log (which grows) and the draws. -/
theorem flushCore_frame (s : State) :
    ∃ d f n q l k, flushCore s =
      { s with
        S := { s.S with mem := { s.S.mem with txData := d }, txFill := f, txInflight := n }
        T := { s.T with bulkInQ := q, log := s.T.log ++ l }
        draws := k } := by
  rcases flushCore_cases s with ⟨_, h⟩ | ⟨_, _, h⟩ | ⟨_, _, h⟩ <;> rw [h]
  · exact ⟨s.S.mem.txData, s.S.txFill, s.S.txInflight, s.T.bulkInQ, [], s.draws, by simp⟩
  · exact ⟨_, _, _, _, _, _, rfl⟩
  · exact ⟨s.S.mem.txData, s.S.txFill, s.S.txInflight, s.T.bulkInQ, [], s.drawn.draws, by simp [State.drawn]⟩

/-- So does the implicit flush. -/
theorem implicitFlush_frame (s : State) :
    ∃ d f n q l k, implicitFlush s =
      { s with
        S := { s.S with mem := { s.S.mem with txData := d }, txFill := f, txInflight := n }
        T := { s.T with bulkInQ := q, log := s.T.log ++ l }
        draws := k } := by
  unfold implicitFlush
  split
  · exact flushCore_frame s
  · exact ⟨s.S.mem.txData, s.S.txFill, s.S.txInflight, s.T.bulkInQ, [], s.draws, by simp⟩

/-- WRITE_BLOCKING's completed form touches no more than a flush and the returned value. -/
theorem writeStaged_frame (b : Byte) (s : State) :
    ∃ d f n q l k, writeStaged b s =
      { s with
        S := { s.S with mem := { s.S.mem with txData := d }, txFill := f, txInflight := n }
        T := { s.T with bulkInQ := q, log := s.T.log ++ l }
        draws := k
        ret := .nothing } := by
  obtain ⟨_, _, _, _, _, _, h⟩ := implicitFlush_frame (stage b s)
  exact ⟨_, _, _, _, _, _, by rw [writeStaged, h]; rfl⟩

/-- Nor does WRITE_BLOCK. -/
theorem writeBlockRun_frame (bs : List Byte) (s : State) :
    ∃ d f n q l k v, writeBlockRun bs s =
      { s with
        S := { s.S with mem := { s.S.mem with txData := d }, txFill := f, txInflight := n }
        T := { s.T with bulkInQ := q, log := s.T.log ++ l }
        draws := k
        ret := .bool v } := by
  unfold writeBlockRun
  split
  · obtain ⟨_, _, _, _, _, _, h⟩ := flushCore_frame (stageBlock bs s.drawn)
    exact ⟨_, _, _, _, _, _, _, by rw [h]; rfl⟩
  · exact ⟨s.S.mem.txData, s.S.txFill, s.S.txInflight, s.T.bulkInQ, [], s.drawn.draws, false,
      by simp [State.returning, State.drawn]⟩

/-- The flush after a completed transmission. -/
theorem flushCore_completeOne_frame (s : State) :
    ∃ d f n q l k, flushCore (completeOne s) =
      { s with
        S := { s.S with mem := { s.S.mem with txData := d }, txFill := f, txInflight := n }
        T := { s.T with bulkInQ := q, log := s.T.log ++ l }
        draws := k } := by
  obtain ⟨_, _, _, _, _, _, h⟩ := flushCore_frame (completeOne s)
  exact ⟨_, _, _, _, _, _, by rw [h]; rfl⟩

/-- A notification touches the interrupt queue, the log, the draws and the returned value. -/
theorem notifySerialState_frame (b : Byte) (s : State) :
    ∃ q l k v, notifySerialState b s =
      { s with T := { s.T with intInQ := q, log := s.T.log ++ l }, draws := k, ret := .bool v } := by
  unfold notifySerialState
  rcases enqueueTransmit_cases .intIn (ssPacket b) .auto s with ⟨_, h⟩ | ⟨_, h⟩ <;> rw [h]
  · exact ⟨_, _, _, _, rfl⟩
  · exact ⟨s.T.intInQ, [], s.drawn.draws, false, by simp [State.returning, State.drawn]⟩

/-- Taking a byte touches the cursor, the pending flag, the endpoint, the log and the returned value. -/
theorem readTake_frame (s : State) :
    ∃ p a l v, readTake s =
      { s with
        S := { s.S with rxCur := s.S.rxCur + 1, rxPend := p }
        T := { s.T with rxArmed := a, log := s.T.log ++ l }
        ret := .byte v } := by
  rcases readTake_cases s with ⟨_, h⟩ | ⟨_, h⟩ <;> rw [h]
  · exact ⟨_, _, _, _, rfl⟩
  · exact ⟨s.S.rxPend, s.T.rxArmed, [], _, by simp; rfl⟩

/-- The end of an encapsulated command's data stage touches `cs`, the requested stage and the log. -/
theorem finishEncap_frame (n : Nat) (s : State) :
    ∃ c e l, finishEncap n s =
      { s with S := { s.S with cs := c }, T := { s.T with ep0Req := e, log := s.T.log ++ l } } := by
  unfold finishEncap
  split
  · exact ⟨_, _, _, rfl⟩
  · exact ⟨_, _, _, rfl⟩

/-- A request touches `cs`, `brk`, the carrier flags, the requested stage and the log. -/
theorem runRequest_frame (p : Setup) (s : State) :
    ∃ c e l b d a, runRequest p s =
      { s with
        S := { s.S with cs := c, brk := b, carrierDte := d, carrierAct := a }
        T := { s.T with ep0Req := e, log := s.T.log ++ l } } := by
  unfold runRequest
  split <;> exact ⟨_, _, _, _, _, _, rfl⟩

/-- The endpoint's answer, in the terms claims use. -/
theorem endpointFree_iff (ep : InEndpoint) (s : State) : endpointFree ep s = true ↔ EndpointAnswersFree ep s := by
  simp only [endpointFree, drawnAnswer, EndpointAnswersFree, Bool.and_eq_true, decide_eq_true_eq]
  cases s.cfg.mayRefuse <;> simp

/-- The target check, in the terms claims use. -/
theorem targetOk_iff (c : Config) (p : Setup) : targetOk c p = true ↔ TargetsCdc c p := by
  have h : ∀ bm : Byte, (bm.extractLsb' 5 2 = 1#2 ∧ bm.extractLsb' 0 5 = 1#5) ↔ bm &&& 0x7F#8 = 0x21#8 := by decide
  simp only [targetOk, TargetsCdc, Config.isCdcInterface, Bool.and_eq_true, beq_iff_eq, Bool.or_eq_true, h]

end Sys2Proof.Machine
end

