-- ==== Sys2Proof/Laws/PerInstr.lean ====
section
/-! SUPPORT. The per-instruction family EncodedLength: how many bytes an operation's encoding has (spec/30_encoding.md R90, R91, R81): an
operation word and at least its two bytes, or a SETUP packet of exactly eight. -/

namespace Sys2Proof.Laws.EncodedLength

/-- The payload length R91 gives an operation, with the operation word's two bytes, or R81's eight bytes. -/
def Statement (i : Instr) : Prop :=
  (encode i).length =
    match i with
    | .writeBlocking _ _ | .writeFast _ _ | .sendSerialState _ _ => 3
    | .writeBlock _ bs => 4 + bs.length
    | .hostDataOut d => 4 + d.length
    | .hostBulkOut d => 4 + d.length
    | .hostSetup _ => 10
    | .sendEncapsulatedCommand _ | .getEncapsulatedCommand _ | .setLineCoding _ | .getLineCoding _ => 8
    | .setControlLineState _ | .sendBreak _ | .ctrlOther _ => 8
    | _ => 2

theorem read (ctx : Ctx) : Statement (.read ctx) := rfl
theorem hasData (ctx : Ctx) : Statement (.hasData ctx) := rfl
theorem discard (ctx : Ctx) : Statement (.discard ctx) := rfl
theorem availableSpace (ctx : Ctx) : Statement (.availableSpace ctx) := rfl
theorem writeBlocking (ctx : Ctx) (b : Byte) : Statement (.writeBlocking ctx b) := rfl
theorem writeFast (ctx : Ctx) (b : Byte) : Statement (.writeFast ctx b) := rfl
theorem writeBlock (ctx : Ctx) (bs : List Byte) : Statement (.writeBlock ctx bs) := by
  simp only [Statement, encode, opBytes, blockBytes, le16, List.length_append, List.length_cons, List.length_nil]
  omega
theorem flush (ctx : Ctx) : Statement (.flush ctx) := rfl
theorem isEmpty (ctx : Ctx) : Statement (.isEmpty ctx) := rfl
theorem sendSerialState (ctx : Ctx) (st : Byte) : Statement (.sendSerialState ctx st) := rfl
theorem getLineCodingApp (ctx : Ctx) : Statement (.getLineCodingApp ctx) := rfl
theorem getCarrier (ctx : Ctx) : Statement (.getCarrier ctx) := rfl
theorem getBreak (ctx : Ctx) : Statement (.getBreak ctx) := rfl
theorem isConnected (ctx : Ctx) : Statement (.isConnected ctx) := rfl
theorem initializeBlock (ctx : Ctx) : Statement (.initializeBlock ctx) := rfl
theorem onSetupReceived : Statement .onSetupReceived := rfl
theorem onDataStageComplete : Statement .onDataStageComplete := rfl
theorem onPacketReceived : Statement .onPacketReceived := rfl
theorem onTransmitComplete : Statement .onTransmitComplete := rfl
theorem maskIrq : Statement .maskIrq := rfl
theorem unmaskIrq : Statement .unmaskIrq := rfl
theorem poll : Statement .poll := rfl
theorem busReset : Statement .busReset := rfl
theorem hostSetup (p : Setup) : Statement (.hostSetup p) := rfl
theorem hostDataOut (d : List Byte) : Statement (.hostDataOut d) := by
  simp only [Statement, encode, opBytes, blockBytes, le16, List.length_append, List.length_cons, List.length_nil]
  omega
theorem hostBulkOut (d : List Byte) : Statement (.hostBulkOut d) := by
  simp only [Statement, encode, opBytes, blockBytes, le16, List.length_append, List.length_cons, List.length_nil]
  omega
theorem hostAckBulkIn : Statement .hostAckBulkIn := rfl
theorem hostAckIntIn : Statement .hostAckIntIn := rfl
theorem sendEncapsulatedCommand (r : Request) : Statement (.sendEncapsulatedCommand r) := rfl
theorem getEncapsulatedCommand (r : Request) : Statement (.getEncapsulatedCommand r) := rfl
theorem setLineCoding (r : Request) : Statement (.setLineCoding r) := rfl
theorem getLineCoding (r : Request) : Statement (.getLineCoding r) := rfl
theorem setControlLineState (r : Request) : Statement (.setControlLineState r) := rfl
theorem sendBreak (r : Request) : Statement (.sendBreak r) := rfl
theorem ctrlOther (p : Setup) : Statement (.ctrlOther p) := rfl

end Sys2Proof.Laws.EncodedLength
end

