-- ==== Sys2Proof/Tests/Slice0.lean ====
section
/-! SUPPORT. The model's own tests: the well-formedness smoke, words written out from spec/30_encoding.md, single steps whose results
are the vectors of spec/95_test_vectors.md, and one witness per statement that has hypotheses. -/

namespace Sys2Proof.Tests

open Sys2Proof Sys2Proof.Machine

/-! ### Small states -/

/-- The parameters of spec/95 section 1.1 with a concrete ENCAP_POWERON. -/
def vec : Config := { Config.vectors with encapPowerOn := [0xE0, 0xE1, 0xE2, 0xE3, 0xE4, 0xE5, 0xE6, 0xE7] }

/-- The parameters of spec/95 W5, with a 4-byte receive frame. -/
def small : Config := { vec with rxBufSize := 4, txBufSize := 4, bulkInMps := 4 }

/-- The booted state B0 of spec/95 section 1.2. -/
def booted (c : Config) : State :=
  { State.powerOn c with
    S := { (State.powerOn c).S with init := true }
    C := { masked := false, main := .ready } }

/-- A booted state with a pending frame of these bytes and the cursor at `cur`, the endpoint held. -/
def withFrame (d : List Byte) (cur : Nat) (s : State) : State :=
  { s with
    S := { s.S with mem := s.S.mem.write .rxData 0 d, rxLen := d.length, rxCur := cur, rxPend := true }
    T := { s.T with rxArmed := false } }

/-- A booted state with these bytes staged. -/
def withStaged (d : List Byte) (s : State) : State :=
  { s with S := { s.S with mem := s.S.mem.write .txData 0 d, txFill := d.length } }

/-- A booted state with one bulk IN packet handed off. -/
def withInflight (p : List Byte) (s : State) : State :=
  { s with S := { s.S with txInflight := 1 }, T := { s.T with bulkInQ := [p] } }

/-- A booted state with a data stage arrived in this control state. -/
def withData (cs : ControlState) (d : List Byte) (s : State) : State :=
  { s with S := { s.S with cs := cs }, T := { s.T with dsLatch := some d } }

/-- A booted state with a SETUP packet arrived. -/
def withSetup (p : Setup) (s : State) : State := { s with T := { s.T with setupLatch := some p } }

/-- A booted state with MAIN in another place. -/
def withMain (m : MainCtx) (s : State) : State := { s with C := { s.C with main := m } }

/-- A booted state with interrupts masked. -/
def masked (s : State) : State := { s with C := { s.C with masked := true } }

/-- A state with one turn scheduled. -/
def withTurn (t : Turn) (s : State) : State := { s with sched := [t] }

/-- The state an outcome goes on in. -/
def after (o : Out) (s : State) : State :=
  match o with
  | .next t => t
  | .fault _ => s
  | .refused _ => s

/-- The state after one operation. -/
def run (i : Instr) (s : State) : State := after (exec i s) s

/-- Why an outcome was refused. -/
def refusedFor (o : Out) : Option Refusal :=
  match o with
  | .next _ => none
  | .fault _ => none
  | .refused r => some r

/-- SetLineCoding's SETUP packet, spec/95 W1. -/
def setupSetLine : Setup := ⟨0x21, 0x20, 0x0000, 0x0000, 0x0007⟩

/-! ### Well-formedness smoke: one ill-formed term per check -/

theorem blockWf_replicate (n : Nat) : blockWf (List.replicate n 0) = decide (n < 65536) := by rw [blockWf, List.length_replicate]

theorem test_wf_block_too_long : Instr.wf vec (.writeBlock .main (List.replicate 65536 0)) = false :=
  (blockWf_replicate _).trans rfl
theorem test_wf_block_longest : Instr.wf vec (.writeBlock .isr (List.replicate 65535 0)) = true :=
  (blockWf_replicate _).trans rfl
theorem test_wf_data_out_too_long : Instr.wf vec (.hostDataOut (List.replicate 65536 0)) = false :=
  (blockWf_replicate _).trans rfl
theorem test_wf_bulk_out_too_long : Instr.wf vec (.hostBulkOut (List.replicate 65536 0)) = false :=
  (blockWf_replicate _).trans rfl
theorem test_wf_request_other_interface :
    Instr.wf vec (.sendEncapsulatedCommand ⟨false, 0, 2, 5⟩) = false ∧
      Instr.wf vec (.getEncapsulatedCommand ⟨true, 0, 2, 5⟩) = false ∧
      Instr.wf vec (.setLineCoding ⟨false, 0, 2, 7⟩) = false ∧ Instr.wf vec (.getLineCoding ⟨true, 0, 2, 7⟩) = false ∧
      Instr.wf vec (.setControlLineState ⟨false, 3, 2, 0⟩) = false ∧ Instr.wf vec (.sendBreak ⟨false, 3, 2, 0⟩) = false := by
  decide
theorem test_wf_request_cdc_interfaces :
    Instr.wf vec (.setLineCoding ⟨false, 0, 0, 7⟩) = true ∧ Instr.wf vec (.sendBreak ⟨true, 0, 0x0101, 0⟩) = true := by decide
theorem test_wf_other_is_no_cdc_request :
    Instr.wf vec (.ctrlOther ⟨0x21, 0x22, 3, 0, 0⟩) = false ∧ Instr.wf vec (.ctrlOther ⟨0xA1, 0x00, 0, 1, 5⟩) = false := by
  decide
theorem test_wf_other_stalled_requests :
    Instr.wf vec (.ctrlOther ⟨0x21, 0x99, 0, 0, 0⟩) = true ∧ Instr.wf vec (.ctrlOther ⟨0x20, 0x22, 3, 0, 0⟩) = true ∧
      Instr.wf vec (.ctrlOther ⟨0x21, 0x22, 3, 2, 0⟩) = true := by decide

/-! ### Decoding: every operation's word, written out from spec/30_encoding.md R90-R92, R101 -/

theorem test_decode_rx :
    decode .main [0x10, 0x00] = .ok (.read .main, []) ∧ decode .irq [0x10, 0x01] = .ok (.read .isr, []) ∧
      decode .main [0x11, 0x00] = .ok (.hasData .main, []) ∧ decode .irq [0x12, 0x01] = .ok (.discard .isr, []) := by decide
theorem test_decode_tx :
    decode .main [0x20, 0x00] = .ok (.availableSpace .main, []) ∧
      decode .main [0x21, 0x00, 0x68] = .ok (.writeBlocking .main 0x68, []) ∧
      decode .irq [0x22, 0x01, 0x41] = .ok (.writeFast .isr 0x41, []) ∧
      decode .main [0x23, 0x00, 0x02, 0x00, 0x48, 0x49, 0x24] = .ok (.writeBlock .main [0x48, 0x49], [0x24]) ∧
      decode .irq [0x24, 0x01] = .ok (.flush .isr, []) ∧ decode .main [0x25, 0x00] = .ok (.isEmpty .main, []) := by decide
theorem test_decode_notify :
    decode .main [0x30, 0x00, 0x03] = .ok (.sendSerialState .main 0x03, []) ∧
      decode .main [0x40, 0x00] = .ok (.getLineCodingApp .main, []) ∧ decode .main [0x41, 0x00] = .ok (.getCarrier .main, []) ∧
      decode .irq [0x42, 0x01] = .ok (.getBreak .isr, []) ∧ decode .main [0x43, 0x00] = .ok (.isConnected .main, []) := by
  decide
theorem test_decode_initialize :
    decode .main [0x50, 0x00] = .ok (.initializeBlock .main, []) ∧ decode .irq [0x50, 0x01] = .ok (.initializeBlock .isr, []) := by
  decide
theorem test_decode_events :
    decode .irq [0x80, 0x00] = .ok (.onSetupReceived, []) ∧ decode .irq [0x81, 0x00] = .ok (.onDataStageComplete, []) ∧
      decode .irq [0x82, 0x00] = .ok (.onPacketReceived, []) ∧ decode .irq [0x83, 0x00] = .ok (.onTransmitComplete, []) := by
  decide
theorem test_decode_context :
    decode .main [0xC0, 0x00] = .ok (.maskIrq, []) ∧ decode .main [0xC1, 0x00] = .ok (.unmaskIrq, []) ∧
      decode .main [0xC2, 0x00] = .ok (.poll, []) := by decide
theorem test_decode_host :
    decode .env [0xC8, 0x00] = .ok (.busReset, []) ∧
      decode .env [0xD0, 0x00, 0x21, 0x22, 0x03, 0x00, 0x00, 0x00, 0x00, 0x00] = .ok (.hostSetup ⟨0x21, 0x22, 3, 0, 0⟩, []) ∧
      decode .env [0xD1, 0x00, 0x00, 0x00] = .ok (.hostDataOut [], []) ∧
      decode .env [0xD2, 0x00, 0x03, 0x00, 0x41, 0x42, 0x43] = .ok (.hostBulkOut [0x41, 0x42, 0x43], []) ∧
      decode .env [0xD3, 0x00] = .ok (.hostAckBulkIn, []) ∧ decode .env [0xD4, 0x00] = .ok (.hostAckIntIn, []) := by decide

/-- Spec/95 section 3.1: the second level, the wire bytes of each request. -/
theorem test_decode_requests :
    (takeSetup [0x21, 0x00, 0x00, 0x00, 0x00, 0x00, 0x05, 0x00]).map (fun x => decodeSetup vec x.1) =
        some (.sendEncapsulatedCommand ⟨false, 0, 0, 5⟩) ∧
      (takeSetup [0xA1, 0x01, 0x00, 0x00, 0x00, 0x00, 0x40, 0x00]).map (fun x => decodeSetup vec x.1) =
        some (.getEncapsulatedCommand ⟨true, 0, 0, 64⟩) ∧
      (takeSetup [0xA1, 0x20, 0x00, 0x00, 0x00, 0x00, 0x07, 0x00]).map (fun x => decodeSetup vec x.1) =
        some (.setLineCoding ⟨true, 0, 0, 7⟩) ∧
      (takeSetup [0x21, 0x21, 0x00, 0x00, 0x01, 0x00, 0x07, 0x00]).map (fun x => decodeSetup vec x.1) =
        some (.getLineCoding ⟨false, 0, 1, 7⟩) ∧
      (takeSetup [0x21, 0x22, 0x01, 0x00, 0x01, 0x01, 0x00, 0x00]).map (fun x => decodeSetup vec x.1) =
        some (.setControlLineState ⟨false, 1, 0x0101, 0⟩) ∧
      (takeSetup [0x21, 0x23, 0xF4, 0x01, 0x00, 0x00, 0x00, 0x00]).map (fun x => decodeSetup vec x.1) =
        some (.sendBreak ⟨false, 0x01F4, 0, 0⟩) := by decide
theorem test_decode_stalled_requests :
    decodeSetup vec ⟨0x21, 0x99, 0, 0, 0⟩ = .ctrlOther ⟨0x21, 0x99, 0, 0, 0⟩ ∧
      decodeSetup vec ⟨0x21, 0x02, 0, 0, 0⟩ = .ctrlOther ⟨0x21, 0x02, 0, 0, 0⟩ ∧
      decodeSetup vec ⟨0x20, 0x22, 3, 0, 0⟩ = .ctrlOther ⟨0x20, 0x22, 3, 0, 0⟩ ∧
      decodeSetup vec ⟨0x41, 0x22, 3, 0, 0⟩ = .ctrlOther ⟨0x41, 0x22, 3, 0, 0⟩ ∧
      decodeSetup vec ⟨0x21, 0x22, 3, 2, 0⟩ = .ctrlOther ⟨0x21, 0x22, 3, 2, 0⟩ := by decide

/-- Spec/95 V-E1 to V-E8. -/
theorem test_refusals :
    decode .main [0x10, 0x02] = .error .reservedBits ∧ decode .main [0x13, 0x00] = .error .unassignedOp ∧
      decode .irq [0x80, 0x01] = .error .reservedBits ∧ decode .main [0x80, 0x00] = .error .wrongAgent ∧
      decode .main [0x10, 0x01] = .error .wrongAgent ∧ decode .env [0x10, 0x00] = .error .wrongAgent ∧
      decode .irq [0xD0, 0x00, 0, 0, 0, 0, 0, 0, 0, 0] = .error .wrongAgent ∧ decode .irq [0xC0, 0x00] = .error .wrongAgent ∧
      decode .main [0x23, 0x00, 0x05, 0x00, 0x41, 0x42] = .error .badOperand ∧
      decode .main [0xC9, 0x00] = .error .unassignedOp := by decide

/-- The opcode table's own words, by its match column; 0x0021 is also SEND_ENCAPSULATED_COMMAND's (Log 14). -/
theorem test_table_words :
    decodeTableWord 16 0x0010 = some (.read .main) ∧ decodeTableWord 16 0x0110 = some (.read .isr) ∧
      decodeTableWord 16 0x0083 = some .onTransmitComplete ∧ decodeTableWord 16 0x00D1 = some (.hostDataOut []) ∧
      decodeTableWord 16 0x0021 = some (.writeBlocking .main 0) ∧
      decodeTableWord 16 0x00A1 = some (.sendEncapsulatedCommand ⟨true, 0, 0, 0⟩) ∧
      decodeTableWord 16 0x01A1 = some (.getEncapsulatedCommand ⟨true, 0, 0, 0⟩) ∧
      decodeTableWord 16 0x2021 = some (.setLineCoding ⟨false, 0, 0, 0⟩) ∧
      decodeTableWord 16 0x2321 = some (.sendBreak ⟨false, 0, 0, 0⟩) ∧
      decodeTableWord 16 0x0000 = some (.ctrlOther ⟨0, 0, 0, 0, 0⟩) := by decide

/-- A table word placed with `withFetchWord` is the first step after reset. -/
theorem test_fetch_word_initialize : (after (step (State.reset.withFetchWord 16 0x0050)) State.reset).S.init = true := by decide
theorem test_fetch_word_set_line_coding :
    (after (step (State.reset.withFetchWord 16 0x2021)) State.reset).T.log = [.dataStage 7] := by decide

/-- Spec/30_encoding.md R99: the set notation of SSTATE. -/
theorem test_serial_state_set : serialState [.dcd, .dsr, .brk] = 0x07 ∧ serialState [.overrun] = 0x40 := by decide

/-! ### Single steps: spec/95 sections 2 and 3 -/

/-- V-R1. -/
theorem test_read_last_byte :
    let t := run (.read .main) (withFrame [0x41] 0 (booted vec))
    t.ret = .byte 0x41 ∧ t.S.rxPend = false ∧ t.T.log = [.rearm] ∧ t.T.rxArmed = true := by decide
/-- V-R6. -/
theorem test_read_isr_first_of_two :
    let t := run (.read .isr) (withFrame [0x58, 0x59] 0 (booted vec))
    t.ret = .byte 0x58 ∧ t.S.rxCur = 1 ∧ t.S.rxPend = true ∧ t.T.log = [] := by decide
/-- V-R2, V-R3. -/
theorem test_read_without_frame :
    (run (.read .main) (booted vec)).C.main = .heldRead ∧ (run (.read .isr) (booted vec)).S.fault = some .blockingDeadlock := by
  decide
/-- V-R15. -/
theorem test_has_data_before_delivery :
    (run (.hasData .main) (run (.hostBulkOut [0x41]) (booted vec))).ret = .bool false := by decide
/-- V-R8. -/
theorem test_discard_when_nothing_pending :
    (run (.discard .main) (booted vec)).T.log = [.rearm] ∧ (run (.discard .main) (booted vec)).T.rxArmed = true := by decide
/-- V-R9. -/
theorem test_packet_of_full_frame :
    let t := run .onPacketReceived (run (.hostBulkOut [0x57, 0x58, 0x59, 0x5A]) (booted small))
    t.S.rxLen = 4 ∧ t.S.rxPend = true ∧ t.S.rxCur = 0 ∧ t.T.rxArmed = false ∧ t.S.mem.rxData = [0x57, 0x58, 0x59, 0x5A] := by
  decide
/-- V-R11. -/
theorem test_packet_oversize :
    (run .onPacketReceived { booted small with T := { (booted small).T with rxLatch := some [1, 2, 3, 4, 5] } }).S.fault =
      some .rxOversize := by decide
/-- V-T2. -/
theorem test_available_space : (run (.availableSpace .main) (withStaged [0x42] (booted vec))).ret = .nat 7 := by decide
/-- V-T1. -/
theorem test_write_blocking_flushes :
    let t := run (.writeBlocking .main 0x41) (booted vec)
    t.T.bulkInQ = [[0x41]] ∧ t.S.txFill = 0 ∧ t.S.txInflight = 1 ∧ t.T.log = [.bulkIn [0x41]] := by decide
/-- V-T2. -/
theorem test_write_blocking_refused_flush :
    let t := run (.writeBlocking .main 0x42) (withInflight [0x41] (booted vec))
    t.S.txFill = 1 ∧ t.T.log = [] ∧ t.S.txInflight = 1 := by decide
/-- W5. -/
theorem test_write_fast_overflow :
    let t := run (.writeFast .main 0x65) (withStaged [0x61, 0x62, 0x63, 0x64] (booted small))
    t.S.mem.txData = [0x61, 0x62, 0x63, 0x65] ∧ t.S.txFill = 4 ∧ t.T.log = [] := by decide
/-- V-T13. -/
theorem test_write_block_truncates :
    let t := run (.writeBlock .main [0x30, 0x31, 0x32, 0x33, 0x34, 0x35, 0x36, 0x37, 0x38, 0x39]) (booted vec)
    t.ret = .bool true ∧ t.T.log = [.bulkIn [0x30, 0x31, 0x32, 0x33, 0x34, 0x35, 0x36]] ∧ t.S.txFill = 0 := by decide
/-- V-T15. -/
theorem test_write_block_straddles :
    let t := run (.writeBlock .main [0x48, 0x49]) (withStaged [0x61, 0x62, 0x63, 0x64, 0x65, 0x66] (booted vec))
    t.T.log = [.bulkIn [0x61, 0x62, 0x63, 0x64, 0x65, 0x66, 0x48]] ∧ t.S.txFill = 1 ∧ t.S.mem.byte .txData 0 = 0x49 := by decide
/-- V-T11. -/
theorem test_flush_shifts_the_rest :
    let t := run (.flush .isr) (withStaged [1, 2, 3, 4, 5, 6, 7, 8, 9, 10] (booted { vec with txBufSize := 16 }))
    t.T.bulkInQ = [[1, 2, 3, 4, 5, 6, 7]] ∧ t.S.txFill = 3 ∧ t.S.mem.read .txData 0 3 = [8, 9, 10] := by decide
/-- V-T10. -/
theorem test_flush_empty_sends_nothing : (run (.flush .main) (booted vec)).T.log = [] := by decide
/-- W2. -/
theorem test_is_empty :
    (run (.isEmpty .main) (withInflight [0x48] (booted vec))).ret = .bool false ∧
      (run (.isEmpty .main) (booted vec)).ret = .bool true := by decide
/-- V-T3. -/
theorem test_transmit_complete_flushes :
    let t := run .onTransmitComplete (run .hostAckBulkIn (withStaged [0x42] (withInflight [0x41] (booted vec))))
    t.S.txInflight = 1 ∧ t.T.log = [.bulkIn [0x42]] ∧ t.H.bulkIn = [[0x41]] ∧ t.T.bulkInAcked = 0 := by decide
/-- V-N1, V-N4. -/
theorem test_serial_state :
    (run (.sendSerialState .main 0x03) (booted vec)).T.intInQ = [[0xA1, 0x20, 0, 0, 0, 0, 2, 0, 3, 0]] ∧
      (run (.sendSerialState .main 0xFF) (booted vec)).T.intInQ = [[0xA1, 0x20, 0, 0, 0, 0, 2, 0, 0x7F, 0]] := by decide
/-- V-N2. -/
theorem test_serial_state_busy :
    let t := run (.sendSerialState .main 0x00) (run (.sendSerialState .main 0x03) (booted vec))
    t.ret = .bool false ∧ t.T.intInQ = [[0xA1, 0x20, 0, 0, 0, 0, 2, 0, 3, 0]] := by decide
/-- V-N10. -/
theorem test_get_line_coding_app :
    (run (.getLineCodingApp .main) (booted vec)).ret = .bytes [0x80, 0x25, 0, 0, 0, 0, 8] := by decide
/-- V-N6. -/
theorem test_get_carrier :
    (run (.getCarrier .main) (run (.setControlLineState ⟨false, 2, 0, 0⟩) (booted vec))).ret = .carrier false true := by decide
/-- V-N7. -/
theorem test_get_break : (run (.getBreak .main) (run (.sendBreak ⟨false, 0xFFFF, 0, 0⟩) (booted vec))).ret = .word 0xFFFF := by
  decide
/-- V-N9. -/
theorem test_is_connected_cleared_by_initialize :
    (run (.isConnected .main)
      (run (.initializeBlock .main) { booted vec with S := { (booted vec).S with conn := true } })).ret = .bool false := by decide
/-- V-R12. -/
theorem test_initialize_keeps_endpoint_held :
    let t := run (.initializeBlock .isr) (withFrame [0x41, 0x42] 0 (booted vec))
    t.S.rxPend = false ∧ t.T.rxArmed = false ∧ t.T.log = [] ∧ t.S.rxLen = 2 := by decide
/-- V-C1 and W8. -/
theorem test_setup_stalls :
    (run .onSetupReceived (withSetup ⟨0x20, 0x22, 3, 0, 0⟩ (booted vec))).T.log = [.stall] ∧
      (run .onSetupReceived (withSetup ⟨0x21, 0x99, 0, 0, 0⟩ (booted vec))).S.cs = .idle := by decide
/-- V-I2. -/
theorem test_setup_before_initialize :
    let s := withSetup ⟨0x21, 0x22, 1, 0, 0⟩ { State.powerOn vec with C := { masked := false, main := .ready } }
    (run .onSetupReceived s).S.fault = some .notInitialized ∧ (run .onSetupReceived s).T.setupLatch = s.T.setupLatch := by decide
/-- W1. -/
theorem test_line_coding_stored :
    let t := run .onDataStageComplete (withData .awaitingLineCoding [0x00, 0xC2, 1, 0, 0, 0, 8] (booted vec))
    t.S.mem.lc = [0x00, 0xC2, 1, 0, 0, 0, 8] ∧ t.S.conn = true ∧ t.S.cs = .idle ∧ t.T.log = [.zlStatus] := by decide
/-- V-C10. -/
theorem test_zero_length_stage_quirk :
    let t := run .onDataStageComplete
      (withData .awaitingEncapsulatedCommand [1, 2, 3, 4, 5, 6, 7, 8] (booted { vec with ep0Mps := 8 }))
    t.S.cs = .awaitingZeroLengthAck ∧ t.T.log = [.dataStage 0] ∧ t.T.ep0Req = some 0 := by decide
/-- V-C8. -/
theorem test_send_encapsulated_requests : (run (.sendEncapsulatedCommand ⟨false, 0, 0, 20⟩) (booted vec)).T.ep0Req = some 8 := by
  decide
/-- V-C15, V-C14. -/
theorem test_get_encapsulated :
    (run (.getEncapsulatedCommand ⟨true, 0, 0, 2⟩) (booted vec)).T.log = [.ctrlIn [0xE0, 0xE1]] ∧
      (run (.getEncapsulatedCommand ⟨true, 0, 0, 0⟩) (booted vec)).T.log = [.ctrlIn []] := by decide
/-- W1. -/
theorem test_set_line_coding :
    (run (.setLineCoding ⟨false, 0, 0, 3⟩) (booted vec)).S.cs = .awaitingLineCoding ∧
      (run (.setLineCoding ⟨false, 0, 0, 3⟩) (booted vec)).T.log = [.dataStage 7] := by decide
/-- V-C16. -/
theorem test_get_line_coding_ignores_length :
    (run (.getLineCoding ⟨true, 0, 0, 2⟩) (booted vec)).T.log = [.ctrlIn [0x80, 0x25, 0, 0, 0, 0, 8]] := by decide
/-- V-C6, V-C7. -/
theorem test_set_control_line_state :
    (run (.setControlLineState ⟨false, 0x00FC, 0, 0⟩) (booted vec)).S.carrierAct = false ∧
      (run (.setControlLineState ⟨false, 0x0101, 0, 0⟩) (booted vec)).S.carrierDte = true ∧
      (run (.setControlLineState ⟨false, 0x0101, 0, 0⟩) (booted vec)).S.carrierAct = false := by decide
/-- W4. -/
theorem test_send_break : (run (.sendBreak ⟨false, 0xFFFF, 0, 0⟩) (booted vec)).S.brk = 0xFFFF := by decide
/-- R193: the stall cancels the requested data stage. -/
theorem test_ctrl_other_cancels :
    (run (.ctrlOther ⟨0x21, 0x99, 0, 0, 0⟩) (run (.setLineCoding ⟨false, 0, 0, 7⟩) (booted vec))).T.ep0Req = none := by decide
/-- V-R4. -/
theorem test_mask_then_read_faults :
    (run (.read .main) (run .maskIrq (booted vec))).S.fault = some .blockingDeadlock := by decide
/-- R182. -/
theorem test_unmask : (run .unmaskIrq (State.powerOn vec)).C.masked = false := by decide
/-- P6 line 4, 5: POLLED mode admits IRQ while MAIN polls. -/
theorem test_poll_admits_irq :
    let s := run (.hostBulkOut [0x41]) (booted { vec with transportMode := .polled })
    refusedFor (exec .onPacketReceived s) = some (.notAdmitted .irqClosed) ∧ (run .onPacketReceived (run .poll s)).S.rxPend = true := by
  decide
/-- V-H1. -/
theorem test_bus_reset :
    let t := run .busReset (withFrame [0x41, 0x42] 0 (withInflight [0x41] (booted vec)))
    t.T.rxArmed = true ∧ t.T.bulkInQ = [] ∧ t.S.rxPend = true ∧ t.S.txInflight = 1 := by decide
/-- R204. -/
theorem test_host_setup_cancels :
    (run (.hostSetup setupSetLine) (run (.setLineCoding ⟨false, 0, 0, 7⟩) (booted vec))).T.ep0Req = none := by decide
/-- V-H3, V-H5. -/
theorem test_host_data_out_guard :
    refusedFor (exec (.hostDataOut [1, 2]) (run (.setLineCoding ⟨false, 0, 0, 7⟩) (booted vec))) =
        some (.notAdmitted .dataStageNotRequested) ∧
      refusedFor (exec (.hostDataOut []) (booted vec)) = some (.notAdmitted .dataStageNotRequested) := by decide
/-- V-R10, W7. -/
theorem test_host_bulk_out_guard :
    refusedFor (exec (.hostBulkOut [1, 2, 3, 4, 5]) (booted small)) = some (.notAdmitted .outEndpointHeld) ∧
      refusedFor (exec (.hostBulkOut [1]) (withFrame [0x41] 0 (booted small))) = some (.notAdmitted .outEndpointHeld) := by decide
/-- R207, V-H4. -/
theorem test_host_ack_bulk_in :
    (run .hostAckBulkIn { booted vec with T := { (booted vec).T with bulkInQ := [[0x68], [0x58]] } }).H.bulkIn = [[0x68]] ∧
      refusedFor (exec .hostAckBulkIn (booted vec)) = some (.notAdmitted .bulkInQueueEmpty) := by decide
/-- V-N3. -/
theorem test_host_ack_int_in :
    (run .hostAckIntIn (run (.sendSerialState .main 3) (booted vec))).H.notif = [[0xA1, 0x20, 0, 0, 0, 0, 2, 0, 3, 0]] := by
  decide
/-- V-T7: the completion step of a held write. -/
theorem test_resume_held_write :
    let s := withMain (.heldWrite 0x58) (withStaged [0x68] (booted { vec with flushMode := .delayed }))
    let t := after (step (withTurn .resume s)) s
    t.S.txFill = 2 ∧ t.S.mem.read .txData 0 2 = [0x68, 0x58] ∧ t.C.main = .ready ∧ t.T.log = [] := by decide
/-- V-E9, V-E11. -/
theorem test_step_refusals :
    (after (step (withTurn (.request .main [0x13, 0x00]) (booted vec))) (booted vec)).S.refused = true ∧
      refusedFor (step (booted { vec with txBufSize := 4 })) = some .badConfig ∧ refusedFor (step (booted vec)) = some .noRequest := by decide

/-- R73 (Log 24): a DISCARD between a packet's landing and its delivery re-arms; the delivery holds the endpoint, so no packet lands. -/
theorem test_discard_before_delivery :
    let s := run (.discard .main) (run (.hostBulkOut [1, 2]) (booted small))
    let t := run .onPacketReceived s
    s.T.rxArmed = true ∧ t.S.rxPend = true ∧ t.T.rxArmed = false ∧
      refusedFor (exec (.hostBulkOut [3]) t) = some (.notAdmitted .outEndpointHeld) := by decide
/-- V-R13, U5: after a BUS_RESET a packet overwrites the pending frame. -/
theorem test_packet_over_frame_after_bus_reset :
    let t := run .onPacketReceived (run (.hostBulkOut [3, 4, 5]) (run .busReset (withFrame [1, 2] 1 (booted small))))
    t.S.rxLen = 3 ∧ t.S.rxCur = 0 ∧ t.S.rxPend = true ∧ t.S.mem.byte .rxData 0 = 3 := by decide
/-- R180, R226 (Log 25): an interrupt-context INITIALIZE releases a WRITE_BLOCKING held on a full buffer. -/
theorem test_initialize_releases_held_write :
    let s := run (.initializeBlock .isr) (withMain (.heldWrite 9) (withStaged [1, 2, 3, 4] (booted { small with flushMode := .delayed })))
    let t := after (step (withTurn .resume s)) s
    t.C.main = .ready ∧ t.S.txFill = 1 ∧ t.S.mem.byte .txData 0 = 9 := by decide

/-! ### Witnesses: for each statement with hypotheses, states and operands that meet them, clause by clause -/

theorem booted_stateInv (c : Config) (h : c.valid = true) : StateInv (booted c) := by
  have h8 : c.encapPowerOn.length = 8 := by
    simp only [Config.valid, Bool.and_eq_true, beq_iff_eq] at h
    exact h.2
  refine ⟨h, ?_, Nat.zero_le _, fun hp => ?_, Nat.zero_le _, Nat.zero_le _⟩
  · rw [Memory.wf_iff]
    intro a
    cases a <;> simp [booted, State.powerOn, Memory.area, Area.capacity, h8, lineCodingDefault]
  · cases hp

theorem booted_contractInv (c : Config) : ContractInv (booted c) := by
  constructor <;> simp [booted, State.powerOn]

theorem booted_packetsOk (c : Config) : PacketsOk (booted c) := by
  constructor <;> simp [booted, State.powerOn]

theorem vec_valid : vec.valid = true ∧ small.valid = true := by decide

/-- A step of a booted machine that answers a next state. -/
theorem booted_step : ∃ t, step (withTurn (.request .main [0x11, 0x00]) (booted vec)) = .next t := ⟨_, rfl⟩

/-- A step that resumes a held READ of a frame's last byte. -/
def resumedRead : State := withTurn .resume (withMain .heldRead (withFrame [0x41] 0 (booted vec)))

/-- A step that resumes a held WRITE_BLOCKING. -/
def resumedWrite : State := withTurn .resume (withMain (.heldWrite 0x41) (booted small))

/-- The steps that run no operation: a resumed READ, a resumed WRITE_BLOCKING, a refused word. -/
theorem witness_StepsWithoutOperation :
    (nextOp resumedRead = none ∧ Resumes resumedRead ∧ resumedRead.T.rxArmed = false ∧ resumedRead.S.rxPend = true ∧
        ∃ t, step resumedRead = .next t ∧ t.T.rxArmed = true ∧ t.S.rxPend = false) ∧
      (nextOp resumedWrite = none ∧ Resumes resumedWrite ∧ resumedWrite.C.main = .heldWrite 0x41 ∧
        resumedWrite.T.rxArmed = true ∧ resumedWrite.S.rxPend = false ∧ ∃ t, step resumedWrite = .next t) ∧
      ∃ t, nextOp (withTurn (.request .main [0x13, 0x00]) (booted vec)) = none ∧
        ¬ Resumes (withTurn (.request .main [0x13, 0x00]) (booted vec)) ∧
        step (withTurn (.request .main [0x13, 0x00]) (booted vec)) = .next t :=
  ⟨⟨rfl, rfl, rfl, rfl, _, rfl, rfl, rfl⟩, ⟨rfl, rfl, rfl, rfl, rfl, _, rfl⟩, _, rfl, by simp [Resumes, withTurn], rfl⟩

/-- A step that runs an operation of MAIN which is neither MASK_IRQ nor UNMASK_IRQ nor BUS_RESET. -/
theorem witness_StepOfAnOperation :
    let s := withTurn (.request .main [0x11, 0x00]) (withInflight [1] (booted vec))
    nextOp s = some (.hasData .main) ∧ InflightBounded s ∧ ∃ t, step s = .next t := ⟨rfl, by decide, _, rfl⟩

theorem witness_DecodeOfEncode :
    Instr.isRequest (.writeBlock .isr []) = false ∧ Instr.wf vec (.writeBlock .isr []) = true ∧
      Instr.isRequest (.hostBulkOut (List.replicate 65535 0)) = false ∧
      Instr.wf vec (.hostBulkOut (List.replicate 65535 0)) = true :=
  ⟨rfl, rfl, rfl, (blockWf_replicate _).trans rfl⟩
theorem witness_RequestDecodeOfEncode :
    Instr.isRequest (.sendBreak ⟨true, 0xFFFF, 0xFF01, 0xFFFF⟩) = true ∧
      Instr.wf vec (.sendBreak ⟨true, 0xFFFF, 0xFF01, 0xFFFF⟩) = true ∧ Instr.isRequest (.ctrlOther ⟨0xFF, 0xFF, 0, 0, 0⟩) = true ∧
      Instr.wf vec (.ctrlOther ⟨0xFF, 0xFF, 0, 0, 0⟩) = true := by decide
theorem witness_DecodedBytes : decode .irq [0x23, 0x01, 0x01, 0x00, 0x41, 0x99] = .ok (.writeBlock .isr [0x41], [0x99]) := by
  decide

/-- Each clause at the ends of its range; the results are R93's. -/
theorem witness_WordsAreRefused_reserved :
    decode .main [0x10, 0x02] = .error .reservedBits ∧ decode .env [0xFF, 0xFF] = .error .reservedBits ∧
      decode .irq [0x80, 0x01] = .error .reservedBits ∧ decode .irq [0x83, 0x01] = .error .reservedBits ∧
      decode .main [0xC0, 0x01] = .error .reservedBits ∧ decode .main [0xC2, 0x01] = .error .reservedBits ∧
      decode .env [0xC8, 0x01] = .error .reservedBits ∧ decode .env [0xD0, 0x01] = .error .reservedBits ∧
      decode .env [0xD4, 0x01] = .error .reservedBits := by decide
theorem witness_WordsAreRefused_unassigned :
    ([0x00#8, 0x0F#8, 0x13#8, 0x1F#8, 0x26#8, 0x2F#8, 0x31#8, 0x3F#8, 0x44#8, 0x4F#8, 0x51#8, 0x7F#8, 0x84#8, 0xBF#8]
      ++ [0xC3#8, 0xC7#8, 0xC9#8, 0xCF#8, 0xD5#8, 0xFF#8]).all (fun lo =>
        decide (decode .main [lo, 0x00] = .error .unassignedOp) && decide (decode .irq [lo, 0x01] = .error .unassignedOp)) =
      true := by decide
theorem witness_WordsAreRefused_wrongAgent :
    decode .irq [0x10, 0x00] = .error .wrongAgent ∧ decode .main [0x50, 0x01] = .error .wrongAgent ∧
      decode .main [0x80, 0x00] = .error .wrongAgent ∧ decode .env [0x83, 0x00] = .error .wrongAgent ∧
      decode .irq [0xC0, 0x00] = .error .wrongAgent ∧ decode .env [0xC2, 0x00] = .error .wrongAgent ∧
      decode .main [0xC8, 0x00] = .error .wrongAgent ∧ decode .irq [0xD0, 0x00] = .error .wrongAgent ∧
      decode .main [0xD4, 0x00] = .error .wrongAgent := by decide
theorem witness_WordsAreRefused_badOperand :
    decode .main [0x21, 0x00] = .error .badOperand ∧ decode .irq [0x30, 0x01] = .error .badOperand ∧
      decode .main [0x23, 0x00, 0x01] = .error .badOperand ∧ decode .env [0xD1, 0x00, 0x01, 0x00] = .error .badOperand ∧
      decode .env [0xD2, 0x00, 0x00, 0x01, 0x41] = .error .badOperand ∧
      decode .env [0xD0, 0x00, 1, 2, 3, 4, 5, 6, 7] = .error .badOperand := by decide
theorem witness_RequestCode :
    (∀ b ∈ [0x00#8, 0x01#8, 0x02#8, 0x1F#8, 0x20#8, 0x21#8, 0x22#8, 0x23#8, 0x24#8, 0xFF#8], TargetsCdc vec ⟨0xA1, b, 0, 1, 0⟩) ∧
      ¬ TargetsCdc vec ⟨0x21, 0x20, 0, 2, 7⟩ ∧ ¬ TargetsCdc vec ⟨0x41, 0x20, 0, 0, 7⟩ := by
  simp only [List.forall_mem_cons]
  decide
theorem witness_StepRuns :
    let s := withTurn (.request .main [0x11, 0x00]) (booted vec)
    s.cfg.valid = true ∧ s.S.fault = none ∧ s.sched = .request .main [0x11, 0x00] :: [] ∧
      decode .main [0x11, 0x00] = .ok (.hasData .main, []) := by decide
theorem witness_RejectedWord :
    let s := withTurn (.request .main [0x13, 0x00]) (booted vec)
    s.cfg.valid = true ∧ s.S.fault = none ∧ s.sched = .request .main [0x13, 0x00] :: [] ∧
      decode .main [0x13, 0x00] = .error .unassignedOp := by decide
theorem witness_Resume :
    let s := withTurn .resume (withMain .heldRead (withFrame [0x41] 0 (booted vec)))
    let u := withTurn .resume (withMain .heldRead (booted vec))
    let v := withTurn .resume (withMain (.heldWrite 0x41) (withStaged [1, 2, 3] (booted small)))
    let w := withTurn .resume (withMain (.heldWrite 0x41) (withStaged [1, 2, 3, 4] (booted small)))
    let p := withTurn .resume (withMain .polling (booted vec))
    (s.cfg.valid = true ∧ s.S.fault = none ∧ s.S.init = true ∧ s.sched = [.resume] ∧ s.C.main = .heldRead ∧ s.S.rxPend = true) ∧
      (u.cfg.valid = true ∧ u.S.fault = none ∧ u.S.init = true ∧ u.sched = [.resume] ∧ u.S.rxPend = false) ∧
      (v.cfg.valid = true ∧ v.S.init = true ∧ v.C.main = .heldWrite 0x41 ∧ v.S.txFill < v.cfg.txBufSize) ∧
      (w.cfg.valid = true ∧ w.S.init = true ∧ w.C.main = .heldWrite 0x41 ∧ w.cfg.txBufSize ≤ w.S.txFill) ∧
      (p.cfg.valid = true ∧ p.S.fault = none ∧ p.S.init = true ∧ p.C.main = .polling) := by decide
theorem witness_ReadTakes :
    let s := withFrame [0x41, 0x42] 0 (booted small)
    let u := withFrame [0x41, 0x42, 0x43, 0x44] 3 (booted small)
    (AppReady .main s ∧ s.S.rxPend = true ∧ s.S.rxCur + 1 ≠ s.S.rxLen) ∧
      (AppReady .isr u ∧ u.S.rxPend = true ∧ u.S.rxCur + 1 = u.S.rxLen) := by decide
theorem witness_Blocked :
    let s := booted { small with transportMode := .polled }
    let f := withStaged [1, 2, 3, 4] (booted small)
    (AppReady .main (booted small) ∧ AppReady .isr (booted small) ∧ (booted small).C.masked = false ∧
        (booted small).S.rxPend = false) ∧
      (AppReady .main (masked s) ∧ (masked s).C.masked = true ∧ (masked s).S.rxPend = false) ∧
      (AppReady .main f ∧ AppReady .isr f ∧ f.C.masked = false ∧ f.cfg.txBufSize ≤ f.S.txFill) ∧
      (AppReady .main (masked f) ∧ (masked f).C.masked = true ∧ (masked f).cfg.txBufSize ≤ (masked f).S.txFill) := by decide
theorem witness_AppReady : AppReady .main (booted vec) ∧ AppReady .isr (booted vec) := by decide
theorem witness_EventReady : EventReady (booted vec) ∧ EventReady (withMain .polling (booted { vec with transportMode := .polled })) := by
  decide
theorem witness_PacketBecomes :
    let s := { booted small with T := { (booted small).T with rxLatch := some [0x41] } }
    let u := { booted small with T := { (booted small).T with rxLatch := some [1, 2, 3, 4] } }
    (EventReady s ∧ s.T.rxLatch = some [0x41] ∧ s.S.mem.wf s.cfg = true) ∧
      (EventReady u ∧ u.T.rxLatch = some [1, 2, 3, 4] ∧ u.S.mem.wf u.cfg = true ∧ u.cfg.rxBufSize = 4) := by decide
theorem witness_EmptyAndOversize :
    let s := { booted small with T := { (booted small).T with rxLatch := some [] } }
    let u := { booted small with T := { (booted small).T with rxLatch := some [1, 2, 3, 4, 5] } }
    (EventReady s ∧ s.T.rxLatch = some []) ∧ (EventReady u ∧ u.T.rxLatch = some [1, 2, 3, 4, 5] ∧ u.cfg.rxBufSize < 5) := by decide
theorem frame_stateInv : StateInv (withFrame [0x41, 0x42] 1 (booted small)) := by
  refine ⟨?_, ?_, ?_, ?_, ?_, ?_⟩ <;> decide
theorem witness_PendingFrame :
    AppReady .main (withFrame [0x41, 0x42] 1 (booted small)) ∧ StateInv (withFrame [0x41, 0x42] 1 (booted small)) ∧
      (withFrame [0x41, 0x42] 1 (booted small)).S.rxPend = true := ⟨by decide, frame_stateInv, rfl⟩
theorem witness_OutEndpoint :
    (∃ t, exec (.discard .main) (withFrame [0x41] 0 (booted vec)) = .next t ∧ t.T.rxArmed = true) ∧
      (withFrame [0x41] 0 (booted vec)).T.rxArmed = false ∧
      (∃ t, exec (.hostBulkOut []) (booted vec) = .next t ∧ t.T.rxArmed = false) ∧ (booted vec).T.rxArmed = true :=
  ⟨⟨_, rfl, rfl⟩, rfl, ⟨_, rfl, rfl⟩, rfl⟩
theorem witness_HeldWhilePending :
    let s := withTurn (.request .main [0x11, 0x00]) (withFrame [0x41] 0 (booted vec))
    let l := run (.hostBulkOut [1]) (booted vec)
    (HeldWhilePending s ∧ s.S.rxPend = true ∧ nextOp s = some (.hasData .main) ∧ ∃ t, step s = .next t) ∧
      (HeldWhilePending (booted vec) ∧ ∃ t, exec (.hostBulkOut [1]) (booted vec) = .next t) ∧
      (HeldWhilePending l ∧ ∃ t, exec .onPacketReceived l = .next t) ∧
      ∃ t, exec .onPacketReceived (run (.discard .main) l) = .next t ∧ (run (.discard .main) l).T.rxArmed = true ∧
        t.T.rxArmed = false :=
  ⟨⟨by decide, rfl, rfl, _, rfl⟩, ⟨by decide, _, rfl⟩, ⟨by decide, _, rfl⟩, _, rfl, rfl, rfl⟩
theorem witness_Stage :
    let s := withStaged [1, 2, 3] (booted small)
    let u := withStaged [1, 2, 3, 4] (booted { small with flushMode := .delayed })
    let v := withStaged [1] (booted { small with flushMode := .delayed })
    (s.S.mem.wf s.cfg = true ∧ 1 ≤ s.cfg.txBufSize ∧ s.S.txFill < s.cfg.txBufSize ∧ s.cfg.flushMode = .immediate) ∧
      (u.S.mem.wf u.cfg = true ∧ 1 ≤ u.cfg.txBufSize ∧ u.cfg.txBufSize ≤ u.S.txFill ∧ u.S.txFill = u.cfg.txBufSize) ∧
      (v.cfg.flushMode = .delayed ∧ v.S.txFill ≠ v.cfg.txBufSize) := by decide
theorem witness_WriteFast :
    let u := withStaged [1, 2, 3, 4] (booted small)
    AppReady .isr u ∧ u.S.mem.wf u.cfg = true ∧ 1 ≤ u.cfg.txBufSize := by decide
theorem witness_WriteBlocking :
    let u := withStaged [1, 2, 3] (booted small)
    AppReady .isr u ∧ u.S.txFill < u.cfg.txBufSize := by decide
theorem witness_Flush :
    let z := booted small
    let s := withStaged [1, 2, 3, 4] (booted small)
    let b := withInflight [9] (withStaged [1] (booted small))
    (AppReady .main z ∧ z.S.mem.wf z.cfg = true ∧ z.S.txFill = 0) ∧
      (AppReady .main s ∧ s.S.mem.wf s.cfg = true ∧ s.S.txFill = s.cfg.txBufSize ∧ EndpointAnswersFree .bulkIn s) ∧
      (AppReady .main b ∧ b.S.mem.wf b.cfg = true ∧ 0 < b.S.txFill ∧ ¬ EndpointAnswersFree .bulkIn b) := by decide
theorem witness_WriteBlock :
    let s := withStaged [1, 2, 3, 4] (booted small)
    let b := withInflight [9] (booted small)
    (AppReady .main s ∧ s.S.mem.wf s.cfg = true ∧ s.S.txFill ≤ s.cfg.txBufSize ∧ EndpointAnswersFree .bulkIn s) ∧
      (AppReady .isr b ∧ b.S.mem.wf b.cfg = true ∧ b.S.txFill ≤ b.cfg.txBufSize ∧ ¬ EndpointAnswersFree .bulkIn b) := by decide
theorem witness_TransmitComplete :
    let s := { booted small with T := { (booted small).T with bulkInAcked := 1 } }
    EventReady s ∧ 0 < s.T.bulkInAcked := by decide
theorem staged_stateInv : StateInv (withStaged [1, 2, 3, 4] (booted small)) := by
  refine ⟨?_, ?_, ?_, ?_, ?_, ?_⟩ <;> decide
theorem witness_TransmittedBytes :
    let s := withStaged [1, 2, 3, 4] (booted small)
    let b := withInflight [9] (booted small)
    StateInv s ∧ StateInv (booted small) ∧ EndpointAnswersFree .bulkIn s ∧ ¬ EndpointAnswersFree .bulkIn b ∧
      s.S.txFill = s.cfg.txBufSize ∧ (booted small).S.txFill < (booted small).cfg.txBufSize ∧
      (∃ t, exec (.flush .main) s = .next t) ∧ (∃ t, exec (.writeBlocking .main 1) (booted small) = .next t ∧ t.S.fault = none) ∧
      (∃ t, exec (.writeBlocking .main 1) s = .next t) ∧
      (∃ t, exec (.writeFast .isr 1) (booted small) = .next t ∧ t.S.fault = none) ∧
      (∃ t, exec (.writeFast .isr 1) s = .next t ∧ t.S.fault = none) ∧
      (∃ t, exec (.writeBlock .isr [1]) s = .next t ∧ t.S.fault = none) ∧ (∃ t, exec (.writeBlock .isr [1]) b = .next t) ∧
      (∃ t, exec (.initializeBlock .main) s = .next t) ∧ (∃ t, exec .busReset s = .next t) ∧
      (∃ t, exec (.writeBlocking .isr 1) s = .next t ∧ t.S.fault ≠ none) :=
  ⟨staged_stateInv, booted_stateInv _ vec_valid.2, by decide, by decide, by decide, by decide, ⟨_, rfl⟩, ⟨_, rfl, by decide⟩,
    ⟨_, rfl⟩, ⟨_, rfl, by decide⟩, ⟨_, rfl, by decide⟩, ⟨_, rfl, by decide⟩, ⟨_, rfl⟩, ⟨_, rfl⟩, ⟨_, rfl⟩, ⟨_, rfl, by decide⟩⟩
theorem witness_TransmittedBytes_resumed : StateInv resumedWrite ∧ StateInv resumedRead := by
  constructor <;> refine ⟨?_, ?_, ?_, ?_, ?_, ?_⟩ <;> decide
theorem witness_StepInvariants :
    let s := withTurn (.request .main [0x11, 0x00]) (booted vec)
    StateInv s ∧ PacketsOk s ∧ ContractInv s ∧ s.S.fault = none ∧ ∃ t, step s = .next t := by
  obtain ⟨a, b, c, d, e, f⟩ := booted_stateInv vec vec_valid.1
  obtain ⟨g, h, i, j, k, l, m, n⟩ := booted_packetsOk vec
  obtain ⟨o, p, q, r, u, v⟩ := booted_contractInv vec
  exact ⟨⟨a, b, c, d, e, f⟩, ⟨g, h, i, j, k, l, m, n⟩, ⟨o, p, q, r, u, v⟩, rfl, booted_step⟩
theorem witness_SerialState :
    let b := { booted vec with T := { (booted vec).T with intInQ := [ssPacket 3] } }
    (AppReady .isr (booted vec) ∧ EndpointAnswersFree .intIn (booted vec)) ∧ (AppReady .main b ∧ ¬ EndpointAnswersFree .intIn b) := by
  decide
theorem witness_SetupEvent :
    EventReady (withSetup setupSetLine (booted vec)) ∧ (withSetup setupSetLine (booted vec)).T.setupLatch = some setupSetLine := by
  decide
theorem witness_ControlState_setup :
    (∀ b ∈ [0x00#8, 0x01#8, 0x20#8, 0x21#8, 0x22#8, 0x23#8, 0x02#8, 0xFF#8],
        EventReady (withSetup ⟨0x21, b, 0, 0, 9⟩ (booted vec)) ∧ TargetsCdc vec ⟨0x21, b, 0, 0, 9⟩) ∧
      ¬ TargetsCdc vec ⟨0x22, 0x20, 0, 0, 7⟩ ∧ ∃ t, exec .onSetupReceived (withSetup setupSetLine (booted vec)) = .next t := by
  refine ⟨?_, by decide, ⟨_, rfl⟩⟩
  simp only [List.forall_mem_cons]
  decide
theorem witness_DataStages :
    let e8 := withData .awaitingEncapsulatedCommand [1, 2, 3, 4, 5, 6, 7, 8] (booted { vec with ep0Mps := 8 })
    let e0 := withData .awaitingEncapsulatedCommand [] (booted vec)
    let l := withData .awaitingLineCoding [1, 2, 3, 4, 5, 6, 7] (booted vec)
    let z := withData .awaitingZeroLengthAck [] (booted vec)
    let i := withData .idle [1] (booted vec)
    (EventReady e8 ∧ e8.S.mem.wf e8.cfg = true ∧ e8.cfg.ep0Mps = 8) ∧ (EventReady e0 ∧ e0.S.mem.wf e0.cfg = true ∧ e0.cfg.ep0Mps ≠ 0) ∧
      (EventReady l ∧ l.S.cs = .awaitingLineCoding) ∧ (EventReady z ∧ z.S.cs = .awaitingZeroLengthAck) ∧
      (EventReady i ∧ i.S.cs = .idle ∧ i.T.dsLatch = some [1]) := by decide
theorem witness_WrongDataStage :
    let e := withData .awaitingEncapsulatedCommand [1, 2, 3, 4, 5, 6, 7, 8, 9] (booted vec)
    let l := withData .awaitingLineCoding [1, 2, 3, 4, 5, 6] (booted vec)
    (EventReady e ∧ e.S.cs = .awaitingEncapsulatedCommand ∧ e.T.dsLatch = some [1, 2, 3, 4, 5, 6, 7, 8, 9]) ∧
      (EventReady l ∧ l.S.cs = .awaitingLineCoding ∧ l.T.dsLatch = some [1, 2, 3, 4, 5, 6]) := by decide
theorem witness_Initialize : (State.powerOn vec).S.fault = none ∧ ctxOpen .main (State.powerOn vec) = true ∧
    ctxOpen .isr (booted vec) = true := by decide
theorem witness_InitializeTwice :
    ∃ t, exec (.initializeBlock .main) (State.powerOn vec) = .next t ∧ ctxOpen .main t = true := ⟨_, rfl, rfl⟩
theorem witness_MainOperations : (State.powerOn vec).S.fault = none ∧ mainFree (State.powerOn vec) = true := by decide
theorem witness_OnlyMask :
    (∃ t, exec (.read .main) (booted vec) = .next t) ∧ (∃ t, exec .maskIrq (booted vec) = .next t) ∧
      ∃ t, exec .unmaskIrq (State.powerOn vec) = .next t := ⟨⟨_, rfl⟩, ⟨_, rfl⟩, ⟨_, rfl⟩⟩
theorem witness_Flags :
    (∃ t, exec .onPacketReceived { booted vec with T := { (booted vec).T with rxLatch := some [1] } } = .next t ∧ t.S.rxPend = true) ∧
      (∃ t, exec (.read .main) (withFrame [1] 0 (booted vec)) = .next t ∧ t.S.rxPend = false) ∧
      (∃ t, exec .onDataStageComplete (withData .awaitingLineCoding [1, 2, 3, 4, 5, 6, 7] (booted vec)) = .next t ∧ t.S.conn = true) ∧
      (∃ t, exec (.setControlLineState ⟨false, 3, 0, 0⟩) (booted vec) = .next t ∧ t.S.carrierDte ≠ false ∧ t.S.carrierAct ≠ false) ∧
      ∃ t, exec .onSetupReceived (withSetup ⟨0x21, 0x22, 3, 0, 0⟩ (booted vec)) = .next t ∧ t.S.carrierDte ≠ false :=
  ⟨⟨_, rfl, rfl⟩, ⟨_, rfl, rfl⟩, ⟨_, rfl, rfl⟩, ⟨_, rfl, by decide, by decide⟩, ⟨_, rfl, by decide⟩⟩
theorem witness_Flags_cleared :
    let s := { booted vec with S := { (booted vec).S with conn := true, carrierDte := true, carrierAct := true } }
    ∃ t, exec (.initializeBlock .main) s = .next t ∧ t.S.conn = false ∧ t.S.carrierDte = false ∧ t.S.carrierAct = false :=
  ⟨_, rfl, rfl, rfl, rfl⟩
theorem witness_LineCoding :
    (∃ t, exec .onDataStageComplete (withData .awaitingLineCoding [1, 2, 3, 4, 5, 6, 7] (booted vec)) = .next t ∧
        t.S.mem.lc ≠ (booted vec).S.mem.lc) ∧
      (booted vec).S.mem.wf (booted vec).cfg = true ∧ ∃ t, exec (.getLineCodingApp .main) (booted vec) = .next t :=
  ⟨⟨_, rfl, by decide⟩, by decide, ⟨_, rfl⟩⟩
theorem witness_BreakAndEncapsulated :
    (∃ t, exec .onSetupReceived (withSetup ⟨0x21, 0x23, 5, 0, 0⟩ (booted vec)) = .next t ∧ t.S.brk ≠ (booted vec).S.brk) ∧
      ∃ t, exec .onDataStageComplete (withData .awaitingEncapsulatedCommand [1] (booted vec)) = .next t ∧
        t.S.mem.encap ≠ (booted vec).S.mem.encap := ⟨⟨_, rfl, by decide⟩, ⟨_, rfl, by decide⟩⟩
theorem witness_LineCoding_steps :
    let s := withTurn (.request .irq [0x81, 0x00]) (withData .awaitingLineCoding [1, 2, 3, 4, 5, 6, 7] (booted vec))
    ∃ t, step s = .next t ∧ t.S.mem.lc ≠ s.S.mem.lc := ⟨_, rfl, by decide⟩
/-- No further step, and one; then GetLineCoding's SETUP packet waits. -/
theorem witness_LineCodingRoundTrip :
    let p : Setup := ⟨0xA1, 0x21, 0, 0, 7⟩
    let s := withSetup p (withTurn (.request .main [0x11, 0x00]) (withData .awaitingLineCoding [1, 2, 3, 4, 5, 6, 7] (booted vec)))
    EventReady s ∧ ∃ t u, exec .onDataStageComplete s = .next t ∧ RunsWhile KeepsLineCoding 0 t t ∧
      RunsWhile KeepsLineCoding 1 t u ∧ EventReady u ∧ u.T.setupLatch = some p ∧ TargetsCdc u.cfg p ∧ AppReady .main u :=
  ⟨by decide, _, _, rfl, rfl, ⟨⟨by decide, fun _ h => by cases (show some (Instr.hasData .main) = _ from h)⟩, _, rfl, rfl⟩, by decide,
    rfl, by decide, by decide⟩
theorem witness_HostOperations :
    let s := run (.setLineCoding ⟨false, 0, 0, 7⟩) (booted small)
    let q := { booted small with T := { (booted small).T with bulkInQ := [[1]], intInQ := [ssPacket 0] } }
    (s.S.fault = none ∧ s.T.ep0Req = some [1, 2, 3, 4, 5, 6, 7].length ∧ s.T.dsLatch = none) ∧
      ((booted small).T.rxArmed = true ∧ (booted small).T.rxLatch = none ∧ [1, 2, 3, 4].length ≤ (booted small).cfg.rxBufSize) ∧
      (q.S.fault = none ∧ q.T.bulkInQ = [1] :: [] ∧ q.T.intInQ = ssPacket 0 :: []) := by decide
theorem witness_EnvSteps :
    (∃ t, exec .hostAckBulkIn (withInflight [1] (booted vec)) = .next t) ∧
      (masked (withInflight [1] (booted vec))).S.fault = none ∧
      (masked (withInflight [1] (booted vec))).T = (withInflight [1] (booted vec)).T ∧
      ∃ t, exec (.flush .main) (withStaged [1] (booted vec)) = .next t := ⟨⟨_, rfl⟩, rfl, rfl, ⟨_, rfl⟩⟩
theorem witness_Uninitialized :
    let s := withSetup setupSetLine { State.powerOn vec with C := { masked := false, main := .ready } }
    (needsInit (.read .isr) = true ∧ s.S.fault = none ∧ s.S.init = false ∧ admitted (.read .isr) s = true) ∧
      (needsInit .onSetupReceived = true ∧ admitted .onSetupReceived s = true) := by decide
theorem witness_FaultStops :
    let s := raiseFault .blockingDeadlock (booted vec)
    s.cfg.valid = true ∧ s.S.fault = some .blockingDeadlock ∧ Instr.isRequest (.initializeBlock .main) = false := by decide
theorem witness_FaultDiscards :
    (∃ t, exec (.read .isr) (booted vec) = .next t ∧ t.S.fault ≠ (booted vec).S.fault) ∧
      (∃ t, exec (.hasData .main) (State.powerOn vec) = .next t ∧ t.S.fault = some .notInitialized) :=
  ⟨⟨_, rfl, by decide⟩, ⟨_, rfl, rfl⟩⟩
theorem witness_Admitted :
    Instr.isRequest (.read .isr) = false ∧ (booted vec).S.fault = none ∧ admitted (.read .isr) (booted vec) = true ∧
      admitted (.read .isr) (masked (booted vec)) = false ∧ admitted .onPacketReceived (booted vec) = false := by decide
theorem witness_Inflight :
    InflightBounded (withInflight [1] (booted vec)) ∧ ∃ t, exec .hostAckBulkIn (withInflight [1] (booted vec)) = .next t :=
  ⟨by decide, ⟨_, rfl⟩⟩
theorem witness_OtherStatements :
    TargetsCdc vec setupSetLine ∧ setupSetLine.bRequest = 0x20 ∧ TargetsCdc vec ⟨0x21, 0x23, 5, 0, 0⟩ ∧
      TargetsCdc vec ⟨0x21, 0x99, 0, 0, 0⟩ ∧ (0x99 : Byte) ∉ [0x00#8, 0x01#8, 0x20#8, 0x21#8, 0x22#8, 0x23#8] ∧
      (run (.sendBreak ⟨false, 0, 0, 0⟩) (booted vec)).S.brk = 0 := by decide

end Sys2Proof.Tests
end

section
/-! SUPPORT. The line coding (spec/10_state.md R34): which effects leave `lc` alone, who writes it, and what a read of it gives. -/

namespace Sys2Proof.Machine

/-! ### What leaves the line coding alone -/

@[simp] theorem flushCore_lc (s : State) : (flushCore s).S.mem.lc = s.S.mem.lc := by
  obtain ⟨_, _, _, _, _, _, h⟩ := flushCore_frame s
  rw [h]

@[simp] theorem writeStaged_lc (b : Byte) (s : State) : (writeStaged b s).S.mem.lc = s.S.mem.lc := by
  obtain ⟨_, _, _, _, _, _, h⟩ := writeStaged_frame b s
  rw [h]

@[simp] theorem writeBlockRun_lc (bs : List Byte) (s : State) : (writeBlockRun bs s).S.mem.lc = s.S.mem.lc := by
  obtain ⟨_, _, _, _, _, _, _, h⟩ := writeBlockRun_frame bs s
  rw [h]

@[simp] theorem readTake_mem (s : State) : (readTake s).S.mem = s.S.mem := by
  obtain ⟨_, _, _, _, h⟩ := readTake_frame s
  rw [h]

@[simp] theorem notifySerialState_mem (st : Byte) (s : State) : (notifySerialState st s).S.mem = s.S.mem := by
  obtain ⟨_, _, _, _, h⟩ := notifySerialState_frame st s
  rw [h]

@[simp] theorem finishEncap_mem (n : Nat) (s : State) : (finishEncap n s).S.mem = s.S.mem := by
  obtain ⟨_, _, _, h⟩ := finishEncap_frame n s
  rw [h]

@[simp] theorem runRequest_mem (p : Setup) (s : State) : (runRequest p s).S.mem = s.S.mem := by
  obtain ⟨_, _, _, _, _, _, h⟩ := runRequest_frame p s
  rw [h]

@[simp] theorem stage_lc (b : Byte) (s : State) : (stage b s).S.mem.lc = s.S.mem.lc := rfl

@[simp] theorem storeFrame_lc (d : List Byte) (s : State) : (storeFrame d s).S.mem.lc = s.S.mem.lc := rfl

@[simp] theorem storeEncap_lc (d : List Byte) (s : State) : (storeEncap d s).S.mem.lc = s.S.mem.lc := rfl

@[simp] theorem discardFrame_mem (s : State) : (discardFrame s).S.mem = s.S.mem := rfl

/-! ### Who writes the line coding -/

/-- R34: operation `i` is one of the two writers of `lc`, and `t` holds what that writer stores from `s`. -/
def WritesLineCoding (i : Instr) (s t : State) : Prop :=
  (i = .onDataStageComplete ∧ s.S.cs = .awaitingLineCoding ∧ s.T.dsLatch = some t.S.mem.lc) ∨
    ∃ ctx, i = .initializeBlock ctx ∧ t.S.mem.lc = [0x80, 0x25, 0x00, 0x00, 0x00, 0x00, 0x08]

theorem initializeBlock_lc {ctx : Ctx} {s t : State} (h : Effect (.initializeBlock ctx) s t) :
    WritesLineCoding (.initializeBlock ctx) s t := by
  obtain ⟨_, -, rfl⟩ := h
  exact .inr ⟨ctx, rfl, rfl⟩

/-- Of the four control states only AwaitingLineCoding lets a completed data stage reach `lc`. -/
theorem onDataStageComplete_lc {s t : State} (h : Effect .onDataStageComplete s t) :
    t.S.mem.lc = s.S.mem.lc ∨ WritesLineCoding .onDataStageComplete s t := by
  obtain ⟨-, -, d, hd, ⟨-, -, rfl⟩ | ⟨hcs, -, rfl⟩ | ⟨-, rfl⟩ | ⟨-, rfl⟩⟩ := h
  · exact .inl (by simp)
  · exact .inr (.inl ⟨rfl, hcs, hd⟩)
  · exact .inl rfl
  · exact .inl rfl

/-- Every effect leaves `lc` alone or is that of one of its writers. -/
theorem effect_lc {i : Instr} {s t : State} (h : Effect i s t) :
    t.S.mem.lc = s.S.mem.lc ∨ WritesLineCoding i s t := by
  cases i
  case initializeBlock => exact .inr (initializeBlock_lc h)
  case onDataStageComplete => exact onDataStageComplete_lc h
  all_goals left
  case read | writeBlocking =>
    obtain ⟨-, _, ⟨-, rfl⟩, ⟨-, rfl⟩ | ⟨-, rfl⟩⟩ := h <;> simp
  case hasData | availableSpace | isEmpty | getLineCodingApp | getCarrier | getBreak | isConnected | discard | writeFast
      | writeBlock | flush | sendSerialState =>
    obtain ⟨-, _, ⟨-, rfl⟩, rfl⟩ := h
    simp
  case onSetupReceived =>
    obtain ⟨-, -, _, -, rfl⟩ := h
    simp
  case onPacketReceived =>
    obtain ⟨-, -, _, -, -, ⟨-, rfl⟩ | ⟨-, rfl⟩⟩ := h <;> simp
  case onTransmitComplete =>
    obtain ⟨-, -, -, rfl⟩ := h
    simp
  case maskIrq | unmaskIrq | poll | hostAckBulkIn | hostAckIntIn =>
    obtain ⟨-, rfl⟩ := h
    rfl
  case hostDataOut =>
    obtain ⟨-, -, rfl⟩ := h
    rfl
  case hostBulkOut =>
    obtain ⟨-, -, -, rfl⟩ := h
    rfl
  case busReset | hostSetup | sendEncapsulatedCommand | getEncapsulatedCommand | setLineCoding | getLineCoding
      | setControlLineState | sendBreak | ctrlOther =>
    cases h
    rfl

/-- A faulting operation keeps `lc`; any other has its effect. -/
theorem exec_lc {i : Instr} {s t : State} (h : exec i s = .next t) :
    t.S.mem.lc = s.S.mem.lc ∨ WritesLineCoding i s t := by
  rcases exec_next h with ⟨_, -, rfl⟩ | he
  · exact .inl rfl
  · exact effect_lc he

theorem resumeMain_lc {s t : State} (h : resumeMain s = .next t) : t.S.mem.lc = s.S.mem.lc := by
  obtain ⟨-, ⟨-, -, rfl⟩ | ⟨_, -, -, rfl⟩⟩ := resumeMain_next h <;> simp

/-- A step that changes `lc` runs one of its writers; the turn it takes from the schedule is no part of what a writer reads. -/
theorem step_lc {s t : State} (h : step s = .next t) :
    t.S.mem.lc = s.S.mem.lc ∨ ∃ i, nextOp s = some i ∧ WritesLineCoding i s t := by
  obtain ⟨-, ⟨i, hi, he⟩ | ⟨-, -, hr⟩ | ⟨-, -, rfl⟩⟩ := step_nextOp h
  · exact (exec_lc he).imp id fun hw => ⟨i, hi, hw⟩
  · exact .inl (resumeMain_lc (s := s.popTurn) hr)
  · exact .inl rfl

/-! ### What reads the line coding -/

/-- A read of seven bytes is all of `lc`. -/
theorem read_lc_of_wf {c : Config} {m : Memory} (h : m.wf c = true) : m.read .lc 0 7 = m.lc := by
  have hlen : m.lc.length = 7 := (Memory.wf_iff c m).1 h .lc
  exact List.take_of_length_le hlen.le

theorem exec_getLineCoding (r : Request) (s : State) :
    exec (.getLineCoding r) s = .next (sendControlData (s.S.mem.read .lc 0 7) s) := rfl

theorem exec_getLineCodingApp {ctx : Ctx} {s : State} (h : AppReady ctx s) :
    exec (.getLineCodingApp ctx) s = .next ((entered ctx s).returning (.bytes (s.S.mem.read .lc 0 7))) := by
  have hrun : exec (.getLineCodingApp ctx) s = _ := asApp_ready h _
  simpa [commit] using hrun

/-- Settles O46: by cases on what an operation can do (`exec_lc`) and on what a turn can do (`step_lc`); the two reads take the
seven bytes of a well-formed `lc`. -/
theorem lineCodingHasTwoWriters : Obligations.LineCodingHasTwoWriters := by
  unfold Obligations.LineCodingHasTwoWriters
  refine ⟨fun i s t h hne => (exec_lc h).resolve_left hne, fun s t h hne => ?_, fun r s t hwf h => ?_,
    fun ctx s t hready hwf h => ?_⟩
  · obtain ⟨i, hi, ⟨rfl, hcs, hd⟩ | ⟨ctx, rfl, hlc⟩⟩ := (step_lc h).resolve_left hne
    · exact .inl ⟨hi, hcs, hd⟩
    · exact .inr ⟨ctx, hi, hlc⟩
  · rw [exec_getLineCoding, read_lc_of_wf hwf] at h
    cases h
    rfl
  · rw [exec_getLineCodingApp hready, read_lc_of_wf hwf] at h
    cases h
    rfl

end Sys2Proof.Machine
end

section
/-! SUPPORT. The interrupt mask (spec/20_memory.md R67): which effects leave the context alone, and that MASK_IRQ and UNMASK_IRQ are
the only operations that change the mask. -/

namespace Sys2Proof.Machine

/-! ### What leaves the context alone -/

@[simp] theorem flushCore_C (s : State) : (flushCore s).C = s.C := by
  obtain ⟨_, _, _, _, _, _, h⟩ := flushCore_frame s
  rw [h]

@[simp] theorem writeStaged_C (b : Byte) (s : State) : (writeStaged b s).C = s.C := by
  obtain ⟨_, _, _, _, _, _, h⟩ := writeStaged_frame b s
  rw [h]

@[simp] theorem writeBlockRun_C (bs : List Byte) (s : State) : (writeBlockRun bs s).C = s.C := by
  obtain ⟨_, _, _, _, _, _, _, h⟩ := writeBlockRun_frame bs s
  rw [h]

@[simp] theorem readTake_C (s : State) : (readTake s).C = s.C := by
  obtain ⟨_, _, _, _, h⟩ := readTake_frame s
  rw [h]

@[simp] theorem notifySerialState_C (st : Byte) (s : State) : (notifySerialState st s).C = s.C := by
  obtain ⟨_, _, _, _, h⟩ := notifySerialState_frame st s
  rw [h]

@[simp] theorem finishEncap_C (n : Nat) (s : State) : (finishEncap n s).C = s.C := by
  obtain ⟨_, _, _, h⟩ := finishEncap_frame n s
  rw [h]

@[simp] theorem runRequest_C (p : Setup) (s : State) : (runRequest p s).C = s.C := by
  obtain ⟨_, _, _, _, _, _, h⟩ := runRequest_frame p s
  rw [h]

@[simp] theorem stage_C (b : Byte) (s : State) : (stage b s).C = s.C := rfl

@[simp] theorem storeFrame_C (d : List Byte) (s : State) : (storeFrame d s).C = s.C := rfl

@[simp] theorem storeEncap_C (d : List Byte) (s : State) : (storeEncap d s).C = s.C := rfl

@[simp] theorem storeLineCoding_C (d : List Byte) (s : State) : (storeLineCoding d s).C = s.C := rfl

@[simp] theorem discardFrame_C (s : State) : (discardFrame s).C = s.C := rfl

@[simp] theorem initializedState_masked (s : State) : (initializedState s).C.masked = s.C.masked := rfl

/-! ### Who changes the mask -/

/-- Every effect but that of MASK_IRQ and UNMASK_IRQ leaves the mask alone. -/
theorem effect_masked {i : Instr} {s t : State} (h : Effect i s t) (hm : i ≠ .maskIrq) (hu : i ≠ .unmaskIrq) :
    t.C.masked = s.C.masked := by
  cases i
  case maskIrq => exact absurd rfl hm
  case unmaskIrq => exact absurd rfl hu
  case read | writeBlocking =>
    obtain ⟨-, _, ⟨-, rfl⟩, ⟨-, rfl⟩ | ⟨-, rfl⟩⟩ := h <;> simp
  case hasData | availableSpace | isEmpty | getLineCodingApp | getCarrier | getBreak | isConnected | discard | writeFast
      | writeBlock | flush | sendSerialState =>
    obtain ⟨-, _, ⟨-, rfl⟩, rfl⟩ := h
    simp
  case initializeBlock =>
    obtain ⟨_, ⟨-, rfl⟩, rfl⟩ := h
    simp
  case onSetupReceived =>
    obtain ⟨-, -, _, -, rfl⟩ := h
    simp
  case onDataStageComplete =>
    obtain ⟨-, -, _, -, ⟨-, -, rfl⟩ | ⟨-, -, rfl⟩ | ⟨-, rfl⟩ | ⟨-, rfl⟩⟩ := h <;> simp
  case onPacketReceived =>
    obtain ⟨-, -, _, -, -, ⟨-, rfl⟩ | ⟨-, rfl⟩⟩ := h <;> simp
  case onTransmitComplete =>
    obtain ⟨-, -, -, rfl⟩ := h
    simp
  case poll | hostAckBulkIn | hostAckIntIn =>
    obtain ⟨-, rfl⟩ := h
    rfl
  case hostDataOut =>
    obtain ⟨-, -, rfl⟩ := h
    rfl
  case hostBulkOut =>
    obtain ⟨-, -, -, rfl⟩ := h
    rfl
  case busReset | hostSetup | sendEncapsulatedCommand | getEncapsulatedCommand | setLineCoding | getLineCoding
      | setControlLineState | sendBreak | ctrlOther =>
    cases h
    rfl

/-- A faulting operation keeps the mask; any other has its effect. -/
theorem exec_masked {i : Instr} {s t : State} (h : exec i s = .next t) (hm : i ≠ .maskIrq) (hu : i ≠ .unmaskIrq) :
    t.C.masked = s.C.masked := by
  rcases exec_next h with ⟨_, -, rfl⟩ | he
  · rfl
  · exact effect_masked he hm hu

theorem resumeMain_masked {s t : State} (h : resumeMain s = .next t) : t.C.masked = s.C.masked := by
  obtain ⟨-, ⟨-, -, rfl⟩ | ⟨_, -, -, rfl⟩⟩ := resumeMain_next h <;> simp

/-- A step that runs neither MASK_IRQ nor UNMASK_IRQ keeps the mask, be it another operation, RESUME or a refused word. -/
theorem step_masked {s t : State} (h : step s = .next t) (hm : nextOp s ≠ some .maskIrq) (hu : nextOp s ≠ some .unmaskIrq) :
    t.C.masked = s.C.masked := by
  obtain ⟨-, ⟨i, hi, he⟩ | ⟨-, -, hr⟩ | ⟨-, -, rfl⟩⟩ := step_nextOp h
  · rw [hi] at hm hu
    exact exec_masked (s := s.popTurn) he (fun e => hm (e ▸ rfl)) (fun e => hu (e ▸ rfl))
  · exact resumeMain_masked (s := s.popTurn) hr
  · rfl

/-- A MAIN step whose body cannot fault answers with what the body makes of the state with MAIN ready. -/
theorem asMain_ok_next {s t : State} {f : State → State} (h : asMain s (fun u => .ok (f u)) = .next t) :
    t = f (s.setMain .ready) := by
  obtain ⟨-, -, h | ⟨_, h, -⟩⟩ := asMain_next h <;> cases h
  rfl

theorem exec_maskIrq_masked {s t : State} (h : exec .maskIrq s = .next t) : t.C.masked = true := by
  rw [asMain_ok_next h, State.setMasked_C]

theorem exec_unmaskIrq_masked {s t : State} (h : exec .unmaskIrq s = .next t) : t.C.masked = false := by
  rw [asMain_ok_next h, State.setMasked_C]

/-- Settles O44: by cases on what an operation can do (`exec_masked`) and on what a turn can do (`step_masked`); MASK_IRQ and
UNMASK_IRQ cannot fault, so they always leave the value they set. -/
theorem onlyMaskOperationsChangeTheMask : Obligations.OnlyMaskOperationsChangeTheMask := by
  unfold Obligations.OnlyMaskOperationsChangeTheMask
  exact ⟨fun _ _ _ => exec_masked, fun _ _ => step_masked, fun _ _ => exec_maskIrq_masked, fun _ _ => exec_unmaskIrq_masked⟩

end Sys2Proof.Machine
end

section
/-! SUPPORT. The control requests (spec/41_control_requests.md): which rule a SETUP packet that passes the target check is dispatched
to, its SETUP16 row, and what the rules of R115, R118 and R119 do. -/

namespace Sys2Proof.Machine

/-! ### The second decode level -/

/-- After a passing target check the request code alone selects the rule (R112). -/
theorem requestKind_of_targetsCdc {c : Config} {p : Setup} (h : TargetsCdc c p) :
    requestKind c p = kindOfCode p.bRequest :=
  if_pos ((targetOk_iff c p).2 h)

/-- R87: a code that is none of the six is the default row. -/
theorem kindOfCode_of_notMem {b : Byte} (h : b ∉ [0x00#8, 0x01#8, 0x20#8, 0x21#8, 0x22#8, 0x23#8]) :
    kindOfCode b = .other := by
  simp only [List.mem_cons, List.not_mem_nil, or_false, not_or] at h
  obtain ⟨h00, h01, h20, h21, h22, h23⟩ := h
  simp only [kindOfCode, BitVec.ofNat_eq_ofNat, h00, h01, h20, h21, h22, h23, if_false]

theorem decodeSetup_setLineCoding {c : Config} {p : Setup} (h : TargetsCdc c p) (hb : p.bRequest = 0x20) :
    decodeSetup c p = .setLineCoding p.request := by
  rw [decodeSetup, requestKind_of_targetsCdc h, hb]
  rfl

theorem decodeSetup_sendBreak {c : Config} {p : Setup} (h : TargetsCdc c p) (hb : p.bRequest = 0x23) :
    decodeSetup c p = .sendBreak p.request := by
  rw [decodeSetup, requestKind_of_targetsCdc h, hb]
  rfl

theorem decodeSetup_ctrlOther {c : Config} {p : Setup} (h : TargetsCdc c p)
    (hb : p.bRequest ∉ [0x00#8, 0x01#8, 0x20#8, 0x21#8, 0x22#8, 0x23#8]) : decodeSetup c p = .ctrlOther p := by
  rw [decodeSetup, requestKind_of_targetsCdc h, kindOfCode_of_notMem hb]

/-- A mask of a 16-bit word masks its two bytes. -/
theorem u16le_and_u16le (lo hi ml mh : Byte) : u16le lo hi &&& u16le ml mh = u16le (lo &&& ml) (hi &&& mh) :=
  BitVec.and_append

/-- The SETUP16 word of a packet that passes the target check, direction bit masked out: its code over 0x21 (D1). -/
theorem setup16_of_targetsCdc {c : Config} {p : Setup} (h : TargetsCdc c p) :
    u16le p.bmRequestType p.bRequest &&& 0xFF7F#16 = u16le 0x21 p.bRequest := by
  calc u16le p.bmRequestType p.bRequest &&& 0xFF7F#16
      = u16le (p.bmRequestType &&& 0x7F#8) (p.bRequest &&& BitVec.allOnes 8) := u16le_and_u16le _ _ 0x7F#8 (BitVec.allOnes 8)
    _ = u16le 0x21 p.bRequest := by rw [h.1, BitVec.and_allOnes]; rfl

/-! ### The rules of the requests -/

theorem exec_setLineCoding (r : Request) (s : State) :
    exec (.setLineCoding r) s = .next (requestDataStage 7 (s.setCs .awaitingLineCoding)) := rfl

theorem exec_sendBreak (r : Request) (s : State) :
    exec (.sendBreak r) s = .next (sendZeroLengthStatus { s with S := { s.S with brk := r.wValue } }) := rfl

theorem exec_ctrlOther (p : Setup) (s : State) : exec (.ctrlOther p) s = .next (stallControlPipe s) := rfl

/-- R118: storing the value that is there leaves only the status. -/
theorem exec_sendBreak_of_brk_eq {r : Request} {s : State} (h : s.S.brk = r.wValue) :
    exec (.sendBreak r) s = .next (sendZeroLengthStatus s) := by
  rw [exec_sendBreak, ← h]

/-- Settles O30: the row is the packet's masked word (`setup16_of_targetsCdc`); the rule sets `cs`, then requests the stage. -/
theorem setLineCodingRequestsSevenBytes : Obligations.SetLineCodingRequestsSevenBytes := by
  unfold Obligations.SetLineCodingRequestsSevenBytes
  refine ⟨fun c p h hb => ⟨?_, decodeSetup_setLineCoding h hb⟩, exec_setLineCoding⟩
  rw [setup16_of_targetsCdc h, hb]
  rfl

/-- Settles O33: the row is the packet's masked word (`setup16_of_targetsCdc`); a value stored over itself changes nothing
(`exec_sendBreak_of_brk_eq`). -/
theorem sendBreakStoresWValue : Obligations.SendBreakStoresWValue := by
  unfold Obligations.SendBreakStoresWValue
  refine ⟨fun c p h hb => ⟨?_, decodeSetup_sendBreak h hb⟩,
    fun r s => ⟨exec_sendBreak r s, exec_sendBreak_of_brk_eq⟩⟩
  rw [setup16_of_targetsCdc h, hb]
  rfl

/-- Settles O34: after a passing target check a code that is none of the six is dispatched to the stall (`decodeSetup_ctrlOther`). -/
theorem unknownRequestStalls : Obligations.UnknownRequestStalls := by
  unfold Obligations.UnknownRequestStalls
  exact ⟨fun _ _ => decodeSetup_ctrlOther, exec_ctrlOther⟩

end Sys2Proof.Machine
end

section
/-! SUPPORT. The TX path (spec/43_tx_path.md): where a staged byte goes and what staging leaves alone (R150), and when the implicit
flush is a flush (R152). -/

namespace Sys2Proof.Machine

/-! ### Staging one byte (R150) -/

theorem stageOffset_of_room {s : State} (h : s.S.txFill < s.cfg.txBufSize) : stageOffset s = s.S.txFill := if_pos h

theorem stageOffset_of_full {s : State} (h : s.cfg.txBufSize ≤ s.S.txFill) : stageOffset s = s.cfg.txBufSize - 1 :=
  if_neg h.not_gt

/-- The staging offset lies inside a buffer that holds at least one byte. -/
theorem stageOffset_lt {s : State} (h : 1 ≤ s.cfg.txBufSize) : stageOffset s < s.cfg.txBufSize := by
  unfold stageOffset
  split <;> omega

theorem stage_txFill_of_room (b : Byte) {s : State} (h : s.S.txFill < s.cfg.txBufSize) :
    (stage b s).S.txFill = s.S.txFill + 1 := if_pos h

theorem stage_txFill_of_full (b : Byte) {s : State} (h : s.cfg.txBufSize ≤ s.S.txFill) :
    (stage b s).S.txFill = s.S.txFill := if_neg h.not_gt

theorem stage_txFill_le (b : Byte) {s : State} (h : s.S.txFill ≤ s.cfg.txBufSize) :
    (stage b s).S.txFill ≤ s.cfg.txBufSize := by
  rcases Nat.lt_or_ge s.S.txFill s.cfg.txBufSize with hroom | hfull
  · rw [stage_txFill_of_room b hroom]
    exact hroom
  · rw [stage_txFill_of_full b hfull]
    exact h

theorem stage_byte_stageOffset (b : Byte) {s : State} (hwf : s.S.mem.wf s.cfg = true) (hcap : 1 ≤ s.cfg.txBufSize) :
    (stage b s).S.mem.byte .txData (stageOffset s) = b := by
  have hlen : (s.S.mem.area .txData).length = s.cfg.txBufSize := (Memory.wf_iff s.cfg s.S.mem).1 hwf .txData
  have hfits : stageOffset s + [b].length ≤ (s.S.mem.area .txData).length := by
    rw [hlen]
    exact stageOffset_lt hcap
  exact Memory.byte_write_inside s.S.mem .txData (stageOffset s) [b] 0 Nat.one_pos hfits

theorem stage_byte_of_ne (b : Byte) (s : State) (a : Area) (o : Nat) (h : a ≠ .txData ∨ o ≠ stageOffset s) :
    (stage b s).S.mem.byte a o = s.S.mem.byte a o :=
  Memory.byte_write_outside _ _ _ _ _ _ (h.imp_right Nat.lt_or_gt_of_ne)

/-! ### The implicit flush (R152) -/

theorem flushesImplicitly_iff (s : State) :
    flushesImplicitly s = true ↔ s.cfg.flushMode = .immediate ∨ s.S.txFill = s.cfg.txBufSize := by
  simp [flushesImplicitly]

theorem implicitFlush_eq_flushCore {s : State} (h : s.cfg.flushMode = .immediate ∨ s.S.txFill = s.cfg.txBufSize) :
    implicitFlush s = flushCore s := if_pos ((flushesImplicitly_iff s).2 h)

theorem implicitFlush_eq_self {s : State} (hmode : s.cfg.flushMode = .delayed) (hfill : s.S.txFill ≠ s.cfg.txBufSize) :
    implicitFlush s = s := by
  refine if_neg fun h => ?_
  rcases (flushesImplicitly_iff s).1 h with himm | hfull
  · rw [hmode] at himm
    cases himm
  · exact hfill hfull

/-- Settles O18: the byte goes to `stageOffset`, which is `tx.fill` with room in the buffer and the last slot without; the flush
follows `flushesImplicitly_iff`. -/
theorem stageAndImplicitFlush : Obligations.StageAndImplicitFlush := by
  unfold Obligations.StageAndImplicitFlush
  intro b s hwf hcap
  have hbyte := stage_byte_stageOffset b hwf hcap
  have hframe := stage_byte_of_ne b s
  refine ⟨fun hroom => ?_, fun hfull => ?_, stage_txFill_le b, rfl, implicitFlush_eq_flushCore, implicitFlush_eq_self⟩
  · rw [stageOffset_of_room hroom] at hbyte hframe
    exact ⟨hbyte, stage_txFill_of_room b hroom, hframe⟩
  · rw [stageOffset_of_full hfull] at hbyte hframe
    exact ⟨hbyte, stage_txFill_of_full b hfull, hframe⟩

end Sys2Proof.Machine
end

section
/-! SUPPORT. The two decode levels against the encoder (spec/30_encoding.md sections 1 and 2): an operation is laid out as its word and
its payload, each is read back as it was laid out, and what is read back is what was laid out. -/

namespace Sys2Proof.Machine

/-! ### The operation word (R90, R93) -/

/-- R90: the ctx bit of a code outside the application group is 0. -/
def CtxFits (o : Op) (ctx : Ctx) : Prop := o.isApp = false → ctx = .main

theorem decodeWord_reserved {lo hi : Byte} (h : hi.extractLsb' 1 7 ≠ 0) : decodeWord (u16le lo hi) = .error .reservedBits :=
  if_pos ((reservedField_u16le lo hi).symm ▸ h)

theorem decodeWord_unassigned {lo hi : Byte} (h : hi.extractLsb' 1 7 = 0) (hc : Op.ofCode lo = none) :
    decodeWord (u16le lo hi) = .error .unassignedOp := by
  simp only [decodeWord, reservedField_u16le, opField_u16le, h, hc, ne_eq, not_true_eq_false, if_false]

theorem decodeWord_ctx_reserved {lo hi : Byte} {o : Op} (h : hi = 1) (hc : Op.ofCode lo = some o) (ha : o.isApp = false) :
    decodeWord (u16le lo hi) = .error .reservedBits := by
  subst h
  simp [decodeWord, reservedField_u16le, opField_u16le, ctxBit_u16le, hc, ha]

/-- A word whose high byte is the ctx bit alone, of an assigned code that admits it. -/
theorem decodeWord_ok {lo : Byte} {o : Op} {ctx : Ctx} (hc : Op.ofCode lo = some o) (hf : CtxFits o ctx) :
    decodeWord (u16le lo (if ctx = .isr then 1 else 0)) = .ok (o, ctx) := by
  simp only [decodeWord, reservedField_u16le, opField_u16le, ctxBit_u16le, hc]
  cases ctx with
  | main => simp
  | isr =>
    have happ : o.isApp ≠ false := fun h => by cases hf h
    simp [happ]

/-- The checks of R93 leave one layout per accepted word. -/
theorem opBytes_of_decodeWord {lo hi : Byte} {o : Op} {ctx : Ctx} (h : decodeWord (u16le lo hi) = .ok (o, ctx)) :
    opBytes o ctx = [lo, hi] ∧ CtxFits o ctx := by
  simp only [decodeWord, reservedField_u16le, opField_u16le, ctxBit_u16le] at h
  split at h
  · cases h
  · rename_i hres
    split at h
    · cases h
    · rename_i hcode
      split at h
      · cases h
      · rename_i hctx
        cases h
        have hhi := high_byte_of_ctx hi (not_not.1 hres)
        rw [← Op.code_ofCode hcode]
        cases hb : hi.getLsbD 0 with
        | false => exact ⟨by rw [hhi, hb]; rfl, fun _ => rfl⟩
        | true => exact ⟨by rw [hhi, hb]; rfl, fun happ => absurd ⟨happ, hb⟩ hctx⟩

/-! ### The payloads (R91) -/

theorem takeByte_eq_some {bs rest : List Byte} {b : Byte} (h : takeByte bs = some (b, rest)) : bs = b :: rest := by
  cases bs <;> cases h
  rfl

theorem takeBlock_eq_some {bs rest d : List Byte} (h : takeBlock bs = some (d, rest)) :
    d.length < 65536 ∧ blockBytes d ++ rest = bs := by
  match bs, h with
  | lo :: hi :: tl, h =>
    simp only [takeBlock] at h
    split at h
    · rename_i hle
      cases h
      have hlen : (tl.take (u16le lo hi).toNat).length = (u16le lo hi).toNat := List.length_take_of_le hle
      refine ⟨hlen.trans_lt (u16le lo hi).isLt, ?_⟩
      simp [blockBytes, hlen, le16_u16le]
    · cases h

theorem takeSetup_eq_some {bs rest : List Byte} {p : Setup} (h : takeSetup bs = some (p, rest)) : p.bytes ++ rest = bs := by
  match bs, h with
  | b0 :: b1 :: b2 :: b3 :: b4 :: b5 :: b6 :: b7 :: tl, h =>
    cases h
    simp [Setup.bytes, le16_u16le]

theorem takeBlock_short {bs : List Byte} (h : bs.length < 2) : takeBlock bs = none := by
  match bs, h with
  | [], _ => rfl
  | [_], _ => rfl

theorem takeBlock_truncated {lo hi : Byte} {tl : List Byte} (h : tl.length < (u16le lo hi).toNat) :
    takeBlock (lo :: hi :: tl) = none := if_neg h.not_ge

theorem takeSetup_short {bs : List Byte} (h : bs.length < 8) : takeSetup bs = none := by
  match bs, h with
  | [], _ | [_], _ | [_, _], _ | [_, _, _], _ | [_, _, _, _], _ | [_, _, _, _, _], _ | [_, _, _, _, _, _], _
  | [_, _, _, _, _, _, _], _ => rfl

/-! ### The whole line (R93, R101) -/

theorem decode_error {a : Agent} {lo hi : Byte} {rest : List Byte} {e : DecodeRefusal}
    (h : decodeWord (u16le lo hi) = .error e) : decode a (lo :: hi :: rest) = .error e := by
  simp only [decode, h]

theorem decode_wrongAgent {a : Agent} {lo hi : Byte} {rest : List Byte} {o : Op} {ctx : Ctx}
    (h : decodeWord (u16le lo hi) = .ok (o, ctx)) (ha : o.agent ctx ≠ a) :
    decode a (lo :: hi :: rest) = .error .wrongAgent := by
  simp only [decode, h, if_neg ha]

theorem decode_badOperand {a : Agent} {lo hi : Byte} {rest : List Byte} {o : Op} {ctx : Ctx}
    (h : decodeWord (u16le lo hi) = .ok (o, ctx)) (ha : o.agent ctx = a) (hp : decodePayload o ctx rest = none) :
    decode a (lo :: hi :: rest) = .error .badOperand := by
  simp only [decode, h, if_pos ha, hp]

theorem decode_opBytes {o : Op} {ctx : Ctx} {bs rest : List Byte} {i : Instr} (hf : CtxFits o ctx)
    (hp : decodePayload o ctx bs = some (i, rest)) : decode (o.agent ctx) (opBytes o ctx ++ bs) = .ok (i, rest) := by
  simp only [opBytes, List.cons_append, List.nil_append, decode, decodeWord_ok (Op.ofCode_code o) hf, hp, if_true]

/-- What an accepted line went through: its word, the agent check and its payload. -/
theorem decode_eq_ok {a : Agent} {bs rest : List Byte} {i : Instr} (h : decode a bs = .ok (i, rest)) :
    ∃ o ctx tl, bs = opBytes o ctx ++ tl ∧ CtxFits o ctx ∧ o.agent ctx = a ∧ decodePayload o ctx tl = some (i, rest) := by
  match bs, h with
  | lo :: hi :: tl, h =>
    simp only [decode] at h
    split at h
    · cases h
    · rename_i o ctx hw
      obtain ⟨hbytes, hf⟩ := opBytes_of_decodeWord hw
      split at h
      · rename_i ha
        split at h
        · rename_i r hp
          cases h
          exact ⟨o, ctx, tl, by rw [hbytes]; rfl, hf, ha, hp⟩
        · cases h
      · cases h

/-! ### Encode, then decode -/

/-- Operation `i` is laid out as the word of `o` and `ctx` and a payload that is read back as `i`. -/
def LaidOutAs (i : Instr) (o : Op) (ctx : Ctx) (payload : List Byte) : Prop :=
  encode i = opBytes o ctx ++ payload ∧ i.agent = o.agent ctx ∧ CtxFits o ctx ∧
    ∀ rest, decodePayload o ctx (payload ++ rest) = some (i, rest)

/-- Every well-formed first-level operation has a layout (R90-R92). -/
theorem layout_of_wf {c : Config} {i : Instr} (hr : i.isRequest = false) (hwf : i.wf c = true) :
    ∃ o ctx payload, LaidOutAs i o ctx payload := by
  cases i
  case writeBlock ctx d =>
    exact ⟨_, ctx, blockBytes d, rfl, rfl, nofun, fun rest => by
      rw [decodePayload, takeBlock_blockBytes d rest (of_decide_eq_true hwf)]; rfl⟩
  case hostDataOut d | hostBulkOut d =>
    exact ⟨_, .main, blockBytes d, rfl, rfl, fun _ => rfl, fun rest => by
      rw [decodePayload, takeBlock_blockBytes d rest (of_decide_eq_true hwf)]; rfl⟩
  case hostSetup p =>
    exact ⟨_, .main, p.bytes, rfl, rfl, fun _ => rfl, fun rest => by rw [decodePayload, takeSetup_bytes]; rfl⟩
  case writeBlocking ctx b | writeFast ctx b | sendSerialState ctx b =>
    exact ⟨_, ctx, [b], rfl, rfl, nofun, fun _ => rfl⟩
  case read ctx | hasData ctx | discard ctx | availableSpace ctx | flush ctx | isEmpty ctx | getLineCodingApp ctx
      | getCarrier ctx | getBreak ctx | isConnected ctx | initializeBlock ctx =>
    exact ⟨_, ctx, [], rfl, rfl, nofun, fun _ => rfl⟩
  case onSetupReceived | onDataStageComplete | onPacketReceived | onTransmitComplete | maskIrq | unmaskIrq | poll | busReset
      | hostAckBulkIn | hostAckIntIn =>
    exact ⟨_, .main, [], rfl, rfl, fun _ => rfl, fun _ => rfl⟩
  all_goals cases hr

/-- Settles O2: every operation has a layout (`layout_of_wf`), and a layout is decoded as it was laid out (`decode_opBytes`). -/
theorem decodeOfEncodeReturnsTheOperation : Obligations.DecodeOfEncodeReturnsTheOperation := by
  unfold Obligations.DecodeOfEncodeReturnsTheOperation
  intro c i rest hr hwf
  obtain ⟨o, ctx, payload, henc, hagent, hf, hp⟩ := layout_of_wf hr hwf
  rw [henc, hagent, List.append_assoc]
  exact decode_opBytes hf (hp rest)

/-! ### Decode, then encode -/

/-- An accepted payload is the one the operation's layout has, whatever follows it. -/
theorem encode_of_decodePayload {o : Op} {ctx : Ctx} {bs rest : List Byte} {i : Instr} (hf : CtxFits o ctx)
    (h : decodePayload o ctx bs = some (i, rest)) :
    i.agent = o.agent ctx ∧ i.isRequest = false ∧ (∀ c, i.wf c = true) ∧ encode i ++ rest = opBytes o ctx ++ bs := by
  cases o
  case writeBlocking | writeFast | sendSerialState =>
    obtain ⟨⟨b, r⟩, hb, h⟩ := Option.map_eq_some_iff.1 h
    cases h
    rw [takeByte_eq_some hb]
    exact ⟨rfl, rfl, fun _ => rfl, rfl⟩
  case writeBlock =>
    obtain ⟨⟨d, r⟩, hb, h⟩ := Option.map_eq_some_iff.1 h
    cases h
    obtain ⟨hlen, rfl⟩ := takeBlock_eq_some hb
    exact ⟨rfl, rfl, fun _ => decide_eq_true hlen, rfl⟩
  case hostDataOut | hostBulkOut =>
    obtain rfl := hf rfl
    obtain ⟨⟨d, r⟩, hb, h⟩ := Option.map_eq_some_iff.1 h
    cases h
    obtain ⟨hlen, rfl⟩ := takeBlock_eq_some hb
    exact ⟨rfl, rfl, fun _ => decide_eq_true hlen, rfl⟩
  case hostSetup =>
    obtain rfl := hf rfl
    obtain ⟨⟨p, r⟩, hb, h⟩ := Option.map_eq_some_iff.1 h
    cases h
    rw [← takeSetup_eq_some hb]
    exact ⟨rfl, rfl, fun _ => rfl, rfl⟩
  case read | hasData | discard | availableSpace | flush | isEmpty | getLineCodingApp | getCarrier | getBreak | isConnected
      | initializeBlock =>
    cases h
    exact ⟨rfl, rfl, fun _ => rfl, rfl⟩
  case onSetupReceived | onDataStageComplete | onPacketReceived | onTransmitComplete | maskIrq | unmaskIrq | poll | busReset
      | hostAckBulkIn | hostAckIntIn =>
    obtain rfl := hf rfl
    cases h
    exact ⟨rfl, rfl, fun _ => rfl, rfl⟩

/-! ### The second level (R81, R83, R87, R111) -/

theorem requestKind_of_not_targetsCdc {c : Config} {p : Setup} (h : ¬ TargetsCdc c p) : requestKind c p = .other :=
  if_neg fun ht => h ((targetOk_iff c p).1 ht)

theorem decodeSetup_of_not_targetsCdc {c : Config} {p : Setup} (h : ¬ TargetsCdc c p) : decodeSetup c p = .ctrlOther p := by
  rw [decodeSetup, requestKind_of_not_targetsCdc h]

theorem targetsCdc_setup {c : Config} {r : Request} (code : Byte) (h : r.wf c = true) : TargetsCdc c (r.setup code) := by
  refine ⟨?_, by simpa [Request.wf, Request.setup, Config.isCdcInterface] using h⟩
  cases hd : r.deviceToHost <;> simp [Request.setup, Request.bmRequestType, hd]

theorem request_setup (r : Request) (code : Byte) : (r.setup code).request = r := by
  have hdir : r.bmRequestType.getLsbD 7 = r.deviceToHost := by
    cases hd : r.deviceToHost <;> simp [Request.bmRequestType, hd]
  simp only [Request.setup, Setup.request, hdir]

/-- A packet that passes the target check is the packet of its operands and its code. -/
theorem setup_request {c : Config} {p : Setup} (h : TargetsCdc c p) : p.request.setup p.bRequest = p := by
  have hbyte : ∀ b : Byte, b &&& 0x7F#8 = 0x21#8 → (if b.getLsbD 7 then 0xA1#8 else 0x21#8) = b := by decide
  have hbm : p.request.bmRequestType = p.bmRequestType := hbyte _ h.1
  rw [Request.setup, hbm]
  rfl

theorem request_wf {c : Config} {p : Setup} (h : TargetsCdc c p) : p.request.wf c = true := by
  simpa [Request.wf, Setup.request, Config.isCdcInterface] using h.2

/-- R87: the codes of the six CDC requests. -/
def cdcCodes : List Byte := [0x00#8, 0x01#8, 0x20#8, 0x21#8, 0x22#8, 0x23#8]

theorem isCdcCode_iff (b : Byte) : isCdcCode b = true ↔ b ∈ cdcCodes := by
  simp [isCdcCode, cdcCodes, or_assoc]

/-- The SETUP packets of CTRL_OTHER: a failed target check, or none of the six codes. -/
theorem wfOther_iff (c : Config) (p : Setup) : p.wfOther c = true ↔ ¬ (p.bRequest ∈ cdcCodes ∧ TargetsCdc c p) := by
  rw [← isCdcCode_iff, ← targetOk_iff, ← Bool.and_eq_true, Setup.wfOther, targetOk]
  simp only [Bool.and_assoc, Bool.not_eq_true', Bool.not_eq_true]

/-- CTRL_OTHER takes exactly these packets. -/
theorem decodeSetup_of_wfOther {c : Config} {p : Setup} (h : p.wfOther c = true) : decodeSetup c p = .ctrlOther p := by
  by_cases ht : TargetsCdc c p
  · exact decodeSetup_ctrlOther ht fun hb => (wfOther_iff c p).1 h ⟨hb, ht⟩
  · exact decodeSetup_of_not_targetsCdc ht

/-- What R83 and R87 make of a packet that passes the target check, by its code. -/
theorem decodeSetup_of_targetsCdc {c : Config} {p : Setup} (h : TargetsCdc c p) :
    (p.bRequest = 0x00 → decodeSetup c p = .sendEncapsulatedCommand p.request) ∧
      (p.bRequest = 0x01 → decodeSetup c p = .getEncapsulatedCommand p.request) ∧
      (p.bRequest = 0x20 → decodeSetup c p = .setLineCoding p.request) ∧
      (p.bRequest = 0x21 → decodeSetup c p = .getLineCoding p.request) ∧
      (p.bRequest = 0x22 → decodeSetup c p = .setControlLineState p.request) ∧
      (p.bRequest = 0x23 → decodeSetup c p = .sendBreak p.request) := by
  rw [decodeSetup, requestKind_of_targetsCdc h]
  refine ⟨?_, ?_, ?_, ?_, ?_, ?_⟩ <;> exact fun hb => hb ▸ rfl

/-- A packet of one of the six requests is decoded to that request, well formed, whose encoding is the packet. -/
theorem decodeSetup_cdc {c : Config} {p : Setup} (h : TargetsCdc c p) (hb : p.bRequest ∈ cdcCodes) :
    decodeSetup c p ≠ .ctrlOther p ∧ (decodeSetup c p).isRequest = true ∧ (decodeSetup c p).wf c = true ∧
      encode (decodeSetup c p) = (p.request.setup p.bRequest).bytes := by
  obtain ⟨h00, h01, h20, h21, h22, h23⟩ := decodeSetup_of_targetsCdc h
  have hwf := request_wf h
  simp only [cdcCodes, List.mem_cons, List.not_mem_nil, or_false] at hb
  rcases hb with hb | hb | hb | hb | hb | hb
  · rw [h00 hb, hb]; exact ⟨nofun, rfl, hwf, rfl⟩
  · rw [h01 hb, hb]; exact ⟨nofun, rfl, hwf, rfl⟩
  · rw [h20 hb, hb]; exact ⟨nofun, rfl, hwf, rfl⟩
  · rw [h21 hb, hb]; exact ⟨nofun, rfl, hwf, rfl⟩
  · rw [h22 hb, hb]; exact ⟨nofun, rfl, hwf, rfl⟩
  · rw [h23 hb, hb]; exact ⟨nofun, rfl, hwf, rfl⟩

/-- Settles O3: a request's packet passes the target check, and its code selects the request back (`decodeSetup_of_targetsCdc`);
the packets of CTRL_OTHER are those no other row takes (`decodeSetup_of_wfOther`). -/
theorem requestDecodeOfEncodeReturnsTheRequest : Obligations.RequestDecodeOfEncodeReturnsTheRequest := by
  unfold Obligations.RequestDecodeOfEncodeReturnsTheRequest
  intro c i rest hr hwf
  cases i
  case ctrlOther p => exact ⟨p, takeSetup_bytes p rest, decodeSetup_of_wfOther hwf⟩
  case sendEncapsulatedCommand r | getEncapsulatedCommand r | setLineCoding r | getLineCoding r | setControlLineState r
      | sendBreak r =>
    refine ⟨_, takeSetup_bytes _ rest, ?_⟩
    rw [decodeSetup, requestKind_of_targetsCdc (targetsCdc_setup _ hwf), request_setup]
    rfl
  all_goals cases hr

/-- Settles O4: an accepted line is its word and its payload (`decode_eq_ok`), which are those of the operation's layout
(`encode_of_decodePayload`); a SETUP packet is that of its request (`decodeSetup_cdc`) or CTRL_OTHER's own. -/
theorem decodedBytesAreTheEncodingOfTheOperation : Obligations.DecodedBytesAreTheEncodingOfTheOperation := by
  unfold Obligations.DecodedBytesAreTheEncodingOfTheOperation
  refine ⟨fun a bs i rest h => ?_, fun c p => ?_⟩
  · obtain ⟨o, ctx, tl, rfl, hf, rfl, hp⟩ := decode_eq_ok h
    exact encode_of_decodePayload hf hp
  · by_cases hcdc : p.bRequest ∈ cdcCodes ∧ TargetsCdc c p
    · obtain ⟨-, hreq, hwf, henc⟩ := decodeSetup_cdc hcdc.2 hcdc.1
      exact ⟨hreq, hwf, by rw [henc, setup_request hcdc.2]⟩
    · have hother := (wfOther_iff c p).2 hcdc
      rw [decodeSetup_of_wfOther hother]
      exact ⟨rfl, hother, rfl⟩

/-! ### Refused words (R93, R96) and the request rows (D1) -/

/-- R96: the codes no row of the table has. -/
theorem ofCode_unassigned : ∀ lo : Byte,
    (lo.toNat ≤ 0x0F ∨ (0x13 ≤ lo.toNat ∧ lo.toNat ≤ 0x1F) ∨ (0x26 ≤ lo.toNat ∧ lo.toNat ≤ 0x2F) ∨
      (0x31 ≤ lo.toNat ∧ lo.toNat ≤ 0x3F) ∨ (0x44 ≤ lo.toNat ∧ lo.toNat ≤ 0x4F) ∨
      (0x51 ≤ lo.toNat ∧ lo.toNat ≤ 0x7F) ∨ (0x84 ≤ lo.toNat ∧ lo.toNat ≤ 0xBF) ∨
      (0xC3 ≤ lo.toNat ∧ lo.toNat ≤ 0xC7) ∨ (0xC9 ≤ lo.toNat ∧ lo.toNat ≤ 0xCF) ∨ 0xD5 ≤ lo.toNat) →
    Op.ofCode lo = none := by decide

/-- R92: the codes of the application-port operations. -/
theorem ofCode_app : ∀ lo : Byte,
    ((0x10 ≤ lo.toNat ∧ lo.toNat ≤ 0x12) ∨ (0x20 ≤ lo.toNat ∧ lo.toNat ≤ 0x25) ∨ lo = 0x30 ∨
      (0x40 ≤ lo.toNat ∧ lo.toNat ≤ 0x43) ∨ lo = 0x50) →
    ∃ o ∈ Op.all, Op.ofCode lo = some o ∧ o.isApp = true := by decide

/-- R92: the codes of each agent's own operations. -/
theorem ofCode_irq : ∀ lo : Byte, (0x80 ≤ lo.toNat ∧ lo.toNat ≤ 0x83) →
    ∃ o ∈ Op.all, Op.ofCode lo = some o ∧ o.isApp = false ∧ o.agent .main = .irq := by decide

theorem ofCode_main : ∀ lo : Byte, (0xC0 ≤ lo.toNat ∧ lo.toNat ≤ 0xC2) →
    ∃ o ∈ Op.all, Op.ofCode lo = some o ∧ o.isApp = false ∧ o.agent .main = .main := by decide

theorem ofCode_env : ∀ lo : Byte, (lo = 0xC8 ∨ (0xD0 ≤ lo.toNat ∧ lo.toNat ≤ 0xD4)) →
    ∃ o ∈ Op.all, Op.ofCode lo = some o ∧ o.isApp = false ∧ o.agent .main = .env := by decide

/-- An application-port operation belongs to the agent of its ctx bit. -/
theorem agent_of_isApp {o : Op} (ctx : Ctx) (h : o.isApp = true) : o.agent ctx = ctx.agent := by
  cases o <;> cases h <;> rfl

theorem reserved_ne_zero : ∀ hi : Byte, 2 ≤ hi.toNat → hi.extractLsb' 1 7 ≠ 0 := by decide

theorem reserved_eq_zero : ∀ hi : Byte, hi.toNat < 2 → hi.extractLsb' 1 7 = 0 := by decide

/-- The high byte with which an agent may issue an application-port request is its ctx bit. -/
theorem ctx_of_issuer {a : Agent} {hi : Byte} (h : (hi = 0 ∧ a = .main) ∨ (hi = 1 ∧ a = .irq)) :
    ∃ ctx : Ctx, hi = (if ctx = .isr then 1 else 0) ∧ ctx.agent = a := by
  rcases h with ⟨rfl, rfl⟩ | ⟨rfl, rfl⟩
  · exact ⟨.main, rfl, rfl⟩
  · exact ⟨.isr, rfl, rfl⟩

/-- The high byte with which an agent may not issue one, likewise. -/
theorem ctx_of_other_issuer {a : Agent} {hi : Byte} (h : (hi = 0 ∧ a ≠ .main) ∨ (hi = 1 ∧ a ≠ .irq)) :
    ∃ ctx : Ctx, hi = (if ctx = .isr then 1 else 0) ∧ ctx.agent ≠ a := by
  rcases h with ⟨rfl, ha⟩ | ⟨rfl, ha⟩
  · exact ⟨.main, rfl, ha.symm⟩
  · exact ⟨.isr, rfl, ha.symm⟩

/-- A code outside the application group, its ctx bit 0, from an agent that does not own it. -/
theorem decode_wrongAgent_of_code {a : Agent} {lo : Byte} {rest : List Byte} {o : Op} (hc : Op.ofCode lo = some o)
    (ha : o.agent .main ≠ a) : decode a (lo :: 0 :: rest) = .error .wrongAgent :=
  decode_wrongAgent (ctx := .main) (decodeWord_ok (ctx := .main) hc fun _ => rfl) ha

/-- An application-port request from its issuer whose payload is short. -/
theorem decode_app_badOperand {a : Agent} {lo hi : Byte} {rest : List Byte} {o : Op} (hc : Op.ofCode lo = some o)
    (happ : o.isApp = true) (hi' : (hi = 0 ∧ a = .main) ∨ (hi = 1 ∧ a = .irq))
    (hp : ∀ ctx, decodePayload o ctx rest = none) : decode a (lo :: hi :: rest) = .error .badOperand := by
  obtain ⟨ctx, rfl, rfl⟩ := ctx_of_issuer hi'
  have hf : CtxFits o ctx := fun h => by rw [happ] at h; cases h
  exact decode_badOperand (decodeWord_ok hc hf) (agent_of_isApp ctx happ) (hp ctx)

/-- A payload BLOCK or DATA that is too short for its length field. -/
theorem takeBlock_eq_none {bs : List Byte}
    (h : bs.length < 2 ∨ ∃ l h r, bs = l :: h :: r ∧ r.length < l.toNat + 256 * h.toNat) : takeBlock bs = none := by
  rcases h with h | ⟨l, h, r, rfl, hlen⟩
  · exact takeBlock_short h
  · refine takeBlock_truncated (hlen.trans_eq ?_)
    rw [u16le, BitVec.append_eq, BitVec.toNat_append, ← Nat.shiftLeft_add_eq_or_of_lt l.isLt, Nat.shiftLeft_eq]
    omega

/-- Settles O5: the checks of `decodeWord` in their order, then the agent check, then the payload, each over its codes. -/
theorem wordsAreRefusedInTheOrderOfTheRule : Obligations.WordsAreRefusedInTheOrderOfTheRule := by
  unfold Obligations.WordsAreRefusedInTheOrderOfTheRule
  intro a lo hi rest
  refine ⟨fun h => ?_, fun h hlo => ?_, fun h hlo => ?_, fun hlo h => ?_, fun h hlo => ?_, fun h hlo hrest => ?_, fun h hrest => ?_,
    fun h ha hlo hrest => ?_⟩
  · exact decode_error (decodeWord_reserved (reserved_ne_zero hi h))
  · exact decode_error (decodeWord_unassigned (reserved_eq_zero hi h) (ofCode_unassigned lo hlo))
  · have hcode : ∃ o, Op.ofCode lo = some o ∧ o.isApp = false := by
      rcases hlo with hirq | hmain | henv
      · obtain ⟨o, -, hc, happ, -⟩ := ofCode_irq lo hirq
        exact ⟨o, hc, happ⟩
      · obtain ⟨o, -, hc, happ, -⟩ := ofCode_main lo hmain
        exact ⟨o, hc, happ⟩
      · obtain ⟨o, -, hc, happ, -⟩ := ofCode_env lo henv
        exact ⟨o, hc, happ⟩
    obtain ⟨o, hc, happ⟩ := hcode
    exact decode_error (decodeWord_ctx_reserved h hc happ)
  · obtain ⟨o, -, hc, happ⟩ := ofCode_app lo hlo
    obtain ⟨ctx, rfl, ha⟩ := ctx_of_other_issuer h
    have hf : CtxFits o ctx := fun h => by rw [happ] at h; cases h
    exact decode_wrongAgent (decodeWord_ok hc hf) (agent_of_isApp ctx happ ▸ ha)
  · subst h
    rcases hlo with ⟨h1, h2, ha⟩ | ⟨h1, h2, ha⟩ | ⟨hlo, ha⟩ | ⟨h1, h2, ha⟩
    · obtain ⟨o, -, hc, -, hagent⟩ := ofCode_irq lo ⟨h1, h2⟩
      exact decode_wrongAgent_of_code hc (hagent ▸ ha.symm)
    · obtain ⟨o, -, hc, -, hagent⟩ := ofCode_main lo ⟨h1, h2⟩
      exact decode_wrongAgent_of_code hc (hagent ▸ ha.symm)
    · obtain ⟨o, -, hc, -, hagent⟩ := ofCode_env lo (.inl hlo)
      exact decode_wrongAgent_of_code hc (hagent ▸ ha.symm)
    · obtain ⟨o, -, hc, -, hagent⟩ := ofCode_env lo (.inr ⟨h1, h2⟩)
      exact decode_wrongAgent_of_code hc (hagent ▸ ha.symm)
  · subst hrest
    rcases hlo with rfl | rfl | rfl
    · exact decode_app_badOperand (Op.ofCode_code .writeBlocking) rfl h fun _ => rfl
    · exact decode_app_badOperand (Op.ofCode_code .writeFast) rfl h fun _ => rfl
    · exact decode_app_badOperand (Op.ofCode_code .sendSerialState) rfl h fun _ => rfl
  · have hnone := takeBlock_eq_none hrest
    rcases h with ⟨h, rfl⟩ | ⟨rfl, rfl, rfl | rfl⟩
    · exact decode_app_badOperand (Op.ofCode_code .writeBlock) rfl h fun _ => by rw [decodePayload, hnone]; rfl
    · exact decode_badOperand (decodeWord_ok (ctx := .main) (Op.ofCode_code .hostDataOut) fun _ => rfl) rfl
        (by rw [decodePayload, hnone]; rfl)
    · exact decode_badOperand (decodeWord_ok (ctx := .main) (Op.ofCode_code .hostBulkOut) fun _ => rfl) rfl
        (by rw [decodePayload, hnone]; rfl)
  · subst h ha hlo
    exact decode_badOperand (decodeWord_ok (ctx := .main) (Op.ofCode_code .hostSetup) fun _ => rfl) rfl
      (by rw [decodePayload, takeSetup_short hrest]; rfl)

theorem notMem_cdcCodes_of_range : ∀ b : Byte, (0x02 ≤ b.toNat ∧ b.toNat ≤ 0x1F) ∨ 0x24 ≤ b.toNat → b ∉ cdcCodes := by
  decide

theorem u16le_inj {lo hi lo' hi' : Byte} : u16le lo hi = u16le lo' hi' ↔ lo = lo' ∧ hi = hi' := by
  refine ⟨fun h => ?_, fun ⟨hlo, hhi⟩ => hlo ▸ hhi ▸ rfl⟩
  have hbytes := congrArg le16 h
  simpa only [le16_u16le, List.cons.injEq, and_true] using hbytes

/-- A SETUP packet's word with the direction bit masked out is a row's match when its type and its code are the row's (D1). -/
theorem setup16_row_iff (bm br : Byte) :
    (∃ n ∈ [0x0021#16, 0x0121#16, 0x2021#16, 0x2121#16, 0x2221#16, 0x2321#16], u16le bm br &&& 0xFF7F#16 = n) ↔
      bm &&& 0x7F#8 = 0x21#8 ∧ br ∈ cdcCodes := by
  have hmask : u16le bm br &&& 0xFF7F#16 = u16le (bm &&& 0x7F#8) br := by
    have hand := u16le_and_u16le bm br 0x7F#8 (BitVec.allOnes 8)
    rwa [BitVec.and_allOnes] at hand
  have hrows : [0x0021#16, 0x0121#16, 0x2021#16, 0x2121#16, 0x2221#16, 0x2321#16] = cdcCodes.map (u16le 0x21#8) := rfl
  rw [hmask, hrows]
  constructor
  · rintro ⟨n, hn, hw⟩
    obtain ⟨b, hb, hbn⟩ := List.mem_map.1 hn
    obtain ⟨hbm, hbr⟩ := u16le_inj.1 (hw.trans hbn.symm)
    exact ⟨hbm, hbr ▸ hb⟩
  · rintro ⟨hbm, hbr⟩
    exact ⟨_, List.mem_map_of_mem hbr, by rw [hbm]⟩

/-- Settles O6: the code selects the row after a passing check (`decodeSetup_of_targetsCdc`), anything else is CTRL_OTHER
(`decodeSetup_of_wfOther`), and a row's masked word is its type and its code (`setup16_row_iff`). -/
theorem requestCodeSelectsExactlyOneRule : Obligations.RequestCodeSelectsExactlyOneRule := by
  unfold Obligations.RequestCodeSelectsExactlyOneRule
  intro c p
  refine ⟨fun h => ?_, decodeSetup_of_not_targetsCdc, ?_⟩
  · obtain ⟨h00, h01, h20, h21, h22, h23⟩ := decodeSetup_of_targetsCdc h
    exact ⟨h00, h01, h20, h21, h22, h23, fun hb => decodeSetup_ctrlOther h (notMem_cdcCodes_of_range _ hb)⟩
  · rw [setup16_row_iff]
    constructor
    · rintro ⟨⟨hbm, hb⟩, hif⟩
      exact (decodeSetup_cdc ⟨hbm, hif⟩ hb).1
    · intro hne
      have hcdc := not_imp_comm.1 (wfOther_iff c p).2 fun hw => hne (decodeSetup_of_wfOther hw)
      obtain ⟨hb, hbm, hif⟩ := hcdc
      exact ⟨⟨hbm, hb⟩, hif⟩

/-- Settles O1: each word is evaluated by the two decoders. -/
theorem sampleWordsDecodeAsTheTableSays : Obligations.SampleWordsDecodeAsTheTableSays := by
  unfold Obligations.SampleWordsDecodeAsTheTableSays
  exact ⟨rfl, rfl, rfl, rfl, rfl, rfl, rfl, rfl, rfl, rfl, rfl⟩

end Sys2Proof.Machine
end

section
/-! SUPPORT. Admission (spec/60_exceptions.md R221, R226, R232): when each kind of operation has a step, what it runs, and how it is
answered otherwise; and what the next turn of the schedule is (spec/30_encoding.md section 5). -/

namespace Sys2Proof.Machine

/-! ### Each kind of operation under its guard -/

theorem asMain_open {s : State} (hf : s.S.fault = none) (ho : mainFree s = true) (b : Body) :
    asMain s b = commit s (b (s.setMain .ready)) := by
  rw [asMain, whileRunning_none hf, if_pos ho]

theorem asIrq_open {s : State} (hf : s.S.fault = none) (ho : irqOpen s = true) (b : Body) : asIrq s b = commit s (b s) := by
  rw [asIrq, whileRunning_none hf, if_pos ho]

theorem asApp_open {ctx : Ctx} {s : State} (hf : s.S.fault = none) (ho : ctxOpen ctx s = true) (b : Body) :
    asApp ctx s b = commit s (b (entered ctx s)) := by
  cases ctx with
  | main => exact asMain_open hf ho b
  | isr => exact asIrq_open hf ho b

theorem onEvent_open {α : Type} {s : State} {latch : Option α} {g : Guard} {a : α} (hf : s.S.fault = none)
    (ho : irqOpen s = true) (hl : latch = some a) (b : α → Body) :
    onEvent latch g s b = commit s (requireInit (b a) s) := by
  simp only [onEvent, whileRunning_none hf, hl, ho, if_true]

theorem asEnv_open {s t : State} {ok : Bool} {g : Guard} (hf : s.S.fault = none) (ho : ok = true) : asEnv s ok g t = .next t := by
  rw [asEnv, whileRunning_none hf, if_pos ho]

theorem asEnvAlways_open {s t : State} (hf : s.S.fault = none) : asEnvAlways s t = .next t := whileRunning_none hf _

/-! ### A guard that holds always ends in a next state -/

theorem asMain_steps {s : State} (hf : s.S.fault = none) (ho : mainFree s = true) (b : Body) : ∃ t, asMain s b = .next t := by
  rw [asMain_open hf ho]
  exact commit_isNext s _

theorem asApp_steps {ctx : Ctx} {s : State} (hf : s.S.fault = none) (ho : ctxOpen ctx s = true) (b : Body) :
    ∃ t, asApp ctx s b = .next t := by
  rw [asApp_open hf ho]
  exact commit_isNext s _

theorem onEvent_steps {α : Type} {s : State} {latch : Option α} {g : Guard} (hf : s.S.fault = none)
    (ho : (irqOpen s && latch.isSome) = true) (b : α → Body) : ∃ t, onEvent latch g s b = .next t := by
  obtain ⟨hirq, hl⟩ := Bool.and_eq_true_iff.1 ho
  obtain ⟨a, ha⟩ := Option.isSome_iff_exists.1 hl
  rw [onEvent_open hf hirq ha]
  exact commit_isNext s _

/-! ### Each kind of operation with its guard false (Log 5) -/

/-- The answer to an operation whose guard is false. -/
def NotAdmitted (o : Out) : Prop := ∃ g, o = .refused (.notAdmitted g)

theorem asMain_closed {s : State} (hf : s.S.fault = none) (ho : mainFree s = false) (b : Body) : NotAdmitted (asMain s b) :=
  ⟨.mainHeld, by rw [asMain, whileRunning_none hf, if_neg (Bool.eq_false_iff.1 ho)]⟩

theorem asIrq_closed {s : State} (hf : s.S.fault = none) (ho : irqOpen s = false) (b : Body) : NotAdmitted (asIrq s b) :=
  ⟨.irqClosed, by rw [asIrq, whileRunning_none hf, if_neg (Bool.eq_false_iff.1 ho)]⟩

theorem asApp_closed {ctx : Ctx} {s : State} (hf : s.S.fault = none) (ho : ctxOpen ctx s = false) (b : Body) :
    NotAdmitted (asApp ctx s b) := by
  cases ctx with
  | main => exact asMain_closed hf ho b
  | isr => exact asIrq_closed hf ho b

theorem onEvent_closed {α : Type} {s : State} {latch : Option α} {g : Guard} (hf : s.S.fault = none)
    (ho : (irqOpen s && latch.isSome) = false) (b : α → Body) : NotAdmitted (onEvent latch g s b) := by
  cases latch with
  | none => exact ⟨g, whileRunning_none hf _⟩
  | some a =>
    have hirq : ¬ irqOpen s = true := by simpa using ho
    exact ⟨.irqClosed, (whileRunning_none hf _).trans (if_neg hirq)⟩

theorem asEnv_closed {s t : State} {ok : Bool} {g : Guard} (hf : s.S.fault = none) (ho : ok = false) :
    NotAdmitted (asEnv s ok g t) :=
  ⟨g, by rw [asEnv, whileRunning_none hf, if_neg (Bool.eq_false_iff.1 ho)]⟩

/-! ### Each kind of operation in an uninitialized block (R221) -/

theorem requireInit_uninitialized {s : State} (b : Body) (h : s.S.init = false) : requireInit b s = .error .notInitialized :=
  if_neg (Bool.eq_false_iff.1 h)

theorem asApp_uninitialized {ctx : Ctx} {s : State} (hf : s.S.fault = none) (ho : ctxOpen ctx s = true) (hi : s.S.init = false)
    (b : Body) : asApp ctx s (requireInit b) = .next (raiseFault .notInitialized s) := by
  rw [asApp_open hf ho, requireInit_uninitialized b (by rw [entered_S, hi])]
  rfl

theorem onEvent_uninitialized {α : Type} {s : State} {latch : Option α} {g : Guard} (hf : s.S.fault = none)
    (ho : (irqOpen s && latch.isSome) = true) (hi : s.S.init = false) (b : α → Body) :
    onEvent latch g s b = .next (raiseFault .notInitialized s) := by
  obtain ⟨hirq, hl⟩ := Bool.and_eq_true_iff.1 ho
  obtain ⟨a, ha⟩ := Option.isSome_iff_exists.1 hl
  rw [onEvent_open hf hirq ha, requireInit_uninitialized _ hi]
  rfl

/-- A counter as a latch: it holds an input while it is above zero (R203). -/
theorem isSome_of_counter (n : Nat) : (if 0 < n then some () else none).isSome = decide (0 < n) := by
  by_cases h : 0 < n <;> simp [h]

/-- Settles O51: every operation that needs an initialized block is an application-port request (`asApp_uninitialized`) or a
transport event (`onEvent_uninitialized`). -/
theorem uninitializedOperationsFault : Obligations.UninitializedOperationsFault := by
  unfold Obligations.UninitializedOperationsFault
  intro i s hn hf hi ha
  cases i
  case read | hasData | discard | availableSpace | writeBlocking | writeFast | writeBlock | flush | isEmpty | sendSerialState
      | getLineCodingApp | getCarrier | getBreak | isConnected =>
    exact asApp_uninitialized hf ha hi _
  case onSetupReceived | onDataStageComplete | onPacketReceived => exact onEvent_uninitialized hf ha hi _
  case onTransmitComplete => exact onEvent_uninitialized hf (by rwa [isSome_of_counter]) hi _
  all_goals cases hn

theorem exec_maskIrq (s : State) : exec .maskIrq s = asMain s fun u => .ok (u.setMasked true) := rfl

theorem exec_unmaskIrq (s : State) : exec .unmaskIrq s = asMain s fun u => .ok (u.setMasked false) := rfl

theorem exec_poll (s : State) : exec .poll s = asMain s fun u => .ok (u.setMain .polling) := rfl

/-- An operation steps under its guard (`asApp_steps` and the like) and is refused without it (`asApp_closed` and the like). -/
theorem exec_admission {i : Instr} {s : State} (hr : i.isRequest = false) (hf : s.S.fault = none) :
    (admitted i s = true → ∃ t, exec i s = .next t) ∧ (admitted i s = false → NotAdmitted (exec i s)) := by
  cases i
  case read | hasData | discard | availableSpace | writeBlocking | writeFast | writeBlock | flush | isEmpty | sendSerialState
      | getLineCodingApp | getCarrier | getBreak | isConnected | initializeBlock =>
    exact ⟨fun ho => asApp_steps hf ho _, fun ho => asApp_closed hf ho _⟩
  case onSetupReceived | onDataStageComplete | onPacketReceived =>
    exact ⟨fun ho => onEvent_steps hf ho _, fun ho => onEvent_closed hf ho _⟩
  case onTransmitComplete =>
    exact ⟨fun ho => onEvent_steps hf (by rwa [isSome_of_counter]) _, fun ho => onEvent_closed hf (by rwa [isSome_of_counter]) _⟩
  case maskIrq =>
    rw [exec_maskIrq]
    exact ⟨fun ho => asMain_steps hf ho _, fun ho => asMain_closed hf ho _⟩
  case unmaskIrq =>
    rw [exec_unmaskIrq]
    exact ⟨fun ho => asMain_steps hf ho _, fun ho => asMain_closed hf ho _⟩
  case poll =>
    rw [exec_poll]
    exact ⟨fun ho => asMain_steps hf ho _, fun ho => asMain_closed hf ho _⟩
  case busReset | hostSetup => exact ⟨fun _ => ⟨_, asEnvAlways_open hf⟩, nofun⟩
  case hostDataOut | hostBulkOut | hostAckBulkIn | hostAckIntIn =>
    exact ⟨fun ho => ⟨_, asEnv_open hf ho⟩, fun ho => asEnv_closed hf ho⟩
  all_goals cases hr

/-- Settles O54: `exec_admission`, the guard kind by kind. -/
theorem admittedOperationsAndOnlyTheyStep : Obligations.AdmittedOperationsAndOnlyTheyStep := by
  unfold Obligations.AdmittedOperationsAndOnlyTheyStep
  exact fun _ _ => exec_admission

/-- An operation that stepped was admitted. -/
theorem admitted_of_exec_next {i : Instr} {s t : State} (hr : i.isRequest = false) (h : exec i s = .next t) :
    admitted i s = true := by
  cases ha : admitted i s with
  | true => rfl
  | false =>
    obtain ⟨_, hg⟩ := (exec_admission hr (exec_next_running hr h)).2 ha
    cases h.symm.trans hg

/-! ### The fault mark (R232) -/

theorem asApp_stopped {ctx : Ctx} {s : State} {r : FaultReason} (h : s.S.fault = some r) (b : Body) :
    asApp ctx s b = .fault (.stopped r) := by
  cases ctx <;> exact whileRunning_some h _

/-- Settles O52: `step` tests the mark before the turn, and every first-level operation before anything else
(`whileRunning_some`). -/
theorem faultStopsEveryAgent : Obligations.FaultStopsEveryAgent := by
  unfold Obligations.FaultStopsEveryAgent
  refine ⟨fun s r hv hf => by simp only [step, fetch, hv, hf, if_true], fun i s r hr hf => ?_⟩
  cases i
  case read | hasData | discard | availableSpace | writeBlocking | writeFast | writeBlock | flush | isEmpty | sendSerialState
      | getLineCodingApp | getCarrier | getBreak | isConnected | initializeBlock =>
    exact asApp_stopped hf _
  case onSetupReceived | onDataStageComplete | onPacketReceived | onTransmitComplete | maskIrq | unmaskIrq | poll | busReset
      | hostSetup | hostDataOut | hostBulkOut | hostAckBulkIn | hostAckIntIn =>
    exact whileRunning_some hf _
  all_goals cases hr

/-! ### The next turn -/

section Turn

variable {s : State} {rest : List Turn} (hv : s.cfg.valid = true) (hf : s.S.fault = none)
include hv hf

theorem step_of_decode_ok {a : Agent} {bs tail : List Byte} {i : Instr} (hs : s.sched = .request a bs :: rest)
    (hd : decode a bs = .ok (i, tail)) : step s = exec i { s with sched := rest } := by
  simp only [step, fetch, hv, hf, hs, hd, if_true, State.popTurn, List.tail_cons]

theorem step_of_decode_error {a : Agent} {bs : List Byte} {e : DecodeRefusal} (hs : s.sched = .request a bs :: rest)
    (hd : decode a bs = .error e) : step s = .next (refuseWord { s with sched := rest }) := by
  simp only [step, fetch, hv, hf, hs, hd, if_true, State.popTurn, List.tail_cons]

theorem step_of_resume (hs : s.sched = .resume :: rest) : step s = resumeMain { s with sched := rest } := by
  simp only [step, fetch, hv, hf, hs, if_true, State.popTurn, List.tail_cons]

end Turn

/-- Settles O7. -/
theorem stepRunsTheDecodedOperation : Obligations.StepRunsTheDecodedOperation := by
  unfold Obligations.StepRunsTheDecodedOperation
  exact fun _ _ _ _ _ _ hv hf hs hd => step_of_decode_ok hv hf hs hd

/-- Settles O8. -/
theorem rejectedWordSetsOnlyTheRefusedMark : Obligations.RejectedWordSetsOnlyTheRefusedMark := by
  unfold Obligations.RejectedWordSetsOnlyTheRefusedMark
  exact fun _ _ _ _ _ hv hf hs hd => step_of_decode_error hv hf hs hd

end Sys2Proof.Machine
end

section
/-! SUPPORT. The operations in a state that admits them: what each answers, as an equation (spec/42_rx_path.md, spec/43_tx_path.md,
spec/44_notification.md, spec/45_initialize_context.md, spec/46_transport_host.md). -/

namespace Sys2Proof.Machine

@[simp] theorem commit_ok (s t : State) : commit s (.ok t) = .next t := rfl

/-! ### READ and its hold (R141) -/

theorem readBody_of_pending (ctx : Ctx) {s : State} (h : s.S.rxPend = true) : readBody ctx s = .ok (readTake s) := if_pos h

theorem readBody_held {ctx : Ctx} {s : State} (h : s.S.rxPend = false) (hn : nonSuspendable ctx s = false) :
    readBody ctx s = .ok (s.setMain .heldRead) := by
  simp only [readBody, h, hn, Bool.false_eq_true, if_false]

theorem readBody_deadlock {ctx : Ctx} {s : State} (h : s.S.rxPend = false) (hn : nonSuspendable ctx s = true) :
    readBody ctx s = .error .blockingDeadlock := by
  simp only [readBody, h, hn, Bool.false_eq_true, if_false, if_true]

theorem exec_read {ctx : Ctx} {s : State} (h : AppReady ctx s) :
    exec (.read ctx) s = commit s (readBody ctx (entered ctx s)) := asApp_ready h _

theorem exec_read_of_pending {ctx : Ctx} {s : State} (h : AppReady ctx s) (hp : s.S.rxPend = true) :
    exec (.read ctx) s = .next (readTake (entered ctx s)) := by
  rw [exec_read h, readBody_of_pending ctx (by rw [entered_S, hp]), commit_ok]

/-! ### WRITE_BLOCKING and its hold (R154) -/

theorem writeBlockingBody_of_room (ctx : Ctx) (b : Byte) {s : State} (h : s.S.txFill < s.cfg.txBufSize) :
    writeBlockingBody ctx b s = .ok (writeStaged b s) := if_pos (decide_eq_true h)

theorem writeBlockingBody_held {ctx : Ctx} (b : Byte) {s : State} (h : s.cfg.txBufSize ≤ s.S.txFill)
    (hn : nonSuspendable ctx s = false) : writeBlockingBody ctx b s = .ok (s.setMain (.heldWrite b)) := by
  simp only [writeBlockingBody, txHasRoom, h.not_gt, hn, decide_false, Bool.false_eq_true, if_false]

theorem writeBlockingBody_deadlock {ctx : Ctx} (b : Byte) {s : State} (h : s.cfg.txBufSize ≤ s.S.txFill)
    (hn : nonSuspendable ctx s = true) : writeBlockingBody ctx b s = .error .blockingDeadlock := by
  simp only [writeBlockingBody, txHasRoom, h.not_gt, hn, decide_false, Bool.false_eq_true, if_false, if_true]

theorem exec_writeBlocking {ctx : Ctx} {b : Byte} {s : State} (h : AppReady ctx s) :
    exec (.writeBlocking ctx b) s = commit s (writeBlockingBody ctx b (entered ctx s)) := asApp_ready h _

theorem exec_writeBlocking_of_room {ctx : Ctx} {b : Byte} {s : State} (h : AppReady ctx s) (hroom : s.S.txFill < s.cfg.txBufSize) :
    exec (.writeBlocking ctx b) s = .next (writeStaged b (entered ctx s)) := by
  rw [exec_writeBlocking h, writeBlockingBody_of_room ctx b (by rwa [entered_S, entered_cfg]), commit_ok]

/-- Only MAIN can be held (R141). -/
theorem nonSuspendable_isr (s : State) : nonSuspendable .isr s = true := rfl

/-- Settles O10: `readTake` on the state the request enters, the last byte or not (`readTake_cases`). -/
theorem readTakesTheByteAtTheCursor : Obligations.ReadTakesTheByteAtTheCursor := by
  unfold Obligations.ReadTakesTheByteAtTheCursor
  intro ctx s h hp
  rw [exec_read_of_pending h hp]
  rcases readTake_cases (entered ctx s) with ⟨hlast, ht⟩ | ⟨hmore, ht⟩
  · rw [entered_S] at hlast
    refine ⟨fun hne => absurd hlast hne, fun _ => ?_⟩
    rw [ht, entered_S, entered_T]
  · rw [entered_S] at hmore
    refine ⟨fun _ => ?_, fun hlast => absurd hlast hmore⟩
    rw [ht, entered_S]

/-- Settles O11: the two bodies with their condition false, by whether the caller can be held. -/
theorem blockedRequestHoldsOrFaults : Obligations.BlockedRequestHoldsOrFaults := by
  unfold Obligations.BlockedRequestHoldsOrFaults
  refine fun s b => ⟨fun hp => ⟨fun h hm => ?_, fun h hm => ?_, fun h => ?_⟩, fun hfull => ⟨fun h hm => ?_, fun h hm => ?_, fun h => ?_⟩⟩
  · rw [exec_read h, readBody_held (by rwa [entered_S]) (by rwa [nonSuspendable_entered])]; rfl
  · rw [exec_read h, readBody_deadlock (by rwa [entered_S]) (by rwa [nonSuspendable_entered])]; rfl
  · rw [exec_read h, readBody_deadlock (by rwa [entered_S]) (nonSuspendable_isr _)]; rfl
  · rw [exec_writeBlocking h, writeBlockingBody_held b (by rwa [entered_S, entered_cfg]) (by rwa [nonSuspendable_entered])]; rfl
  · rw [exec_writeBlocking h, writeBlockingBody_deadlock b (by rwa [entered_S, entered_cfg]) (by rwa [nonSuspendable_entered])]; rfl
  · rw [exec_writeBlocking h, writeBlockingBody_deadlock b (by rwa [entered_S, entered_cfg]) (nonSuspendable_isr _)]; rfl

/-- Settles O20. -/
theorem writeBlockingStagesThenFlushesImplicitly : Obligations.WriteBlockingStagesThenFlushesImplicitly := by
  unfold Obligations.WriteBlockingStagesThenFlushesImplicitly
  exact fun ctx b s h hroom => exec_writeBlocking_of_room h hroom

/-! ### RESUME (R185) -/

theorem resumeMain_read {s : State} (hf : s.S.fault = none) (hm : s.C.main = .heldRead) (hp : s.S.rxPend = true) :
    resumeMain s = .next (readTake (s.setMain .ready)) := by
  simp only [resumeMain, whileRunning_none hf, hm, hp, if_true]

theorem resumeMain_write {s : State} {b : Byte} (hf : s.S.fault = none) (hm : s.C.main = .heldWrite b)
    (hroom : s.S.txFill < s.cfg.txBufSize) : resumeMain s = .next (writeStaged b (s.setMain .ready)) := by
  simp only [resumeMain, whileRunning_none hf, hm, txHasRoom, hroom, decide_true, if_true]

/-- Settles O9: a resumed request runs the rest of its operation on a ready MAIN, as the operation itself would from there. -/
theorem resumeCompletesTheHeldRequest : Obligations.ResumeCompletesTheHeldRequest := by
  unfold Obligations.ResumeCompletesTheHeldRequest
  intro s rest hv hf hi hs
  rw [step_of_resume hv hf hs]
  have hready : AppReady .main { s with sched := rest, C := { s.C with main := .ready } } := ⟨hf, rfl, hi⟩
  refine ⟨fun hm hp => ?_, fun hm hp => ?_, fun b hm hroom => ?_, fun b hm hfull => ?_, fun hm => ?_⟩
  · rw [resumeMain_read (by exact hf) (by exact hm) (by exact hp), exec_read_of_pending hready hp]
    rfl
  · simp [resumeMain, whileRunning, hf, hm, hp]
  · rw [resumeMain_write (by exact hf) (by exact hm) (by exact hroom), exec_writeBlocking_of_room hready hroom]
    rfl
  · simp [resumeMain, whileRunning, hf, hm, txHasRoom, hfull.not_gt]
  · rcases hm with hm | hm <;> simp [resumeMain, whileRunning, hf, hm]

/-! ### The pure requests (R68) -/

theorem pureRead_ready {ctx : Ctx} {s : State} (h : AppReady ctx s) (f : State → Ret) :
    asApp ctx s (pureRead f) = .next ((entered ctx s).returning (f (entered ctx s))) := asApp_ready h _

/-- Settles O12: a pure request returns its value of the state it enters (`pureRead_ready`), which is that of the state before. -/
theorem pureRequestsReturnTheirValueAndWriteNothing : Obligations.PureRequestsReturnTheirValueAndWriteNothing := by
  unfold Obligations.PureRequestsReturnTheirValueAndWriteNothing
  intro ctx s h
  have hempty : txEmpty (entered ctx s) = decide (s.S.txFill = 0 ∧ s.S.txInflight = 0) := by
    simp [txEmpty, Bool.decide_and, beq_eq_decide]
  refine ⟨(pureRead_ready h _).trans ?_, (pureRead_ready h _).trans ?_, (pureRead_ready h _).trans ?_, (pureRead_ready h _).trans ?_,
    (pureRead_ready h _).trans ?_, (pureRead_ready h _).trans ?_, (pureRead_ready h _).trans ?_⟩
  · rw [entered_S]; rfl
  · rw [availableSpace, entered_cfg, entered_S]; rfl
  · rw [hempty]; rfl
  · rw [entered_S]; rfl
  · rw [entered_S]; rfl
  · rw [entered_S]; rfl
  · rw [entered_S]; rfl

/-- What is written at the front of an area is read back from there. -/
theorem byte_write_front {m : Memory} {a : Area} {bs : List Byte} {k : Nat} (hk : k < bs.length)
    (hd : bs.length ≤ (m.area a).length) : (m.write a 0 bs).byte a k = bs[k] := by
  have hbyte := Memory.byte_write_inside m a 0 bs k hk (by omega)
  rwa [Nat.zero_add] at hbyte

/-- Such a write leaves every other byte alone. -/
theorem byte_write_front_outside {m : Memory} {a b : Area} {bs : List Byte} {o : Nat} (h : b ≠ a ∨ bs.length ≤ o) :
    (m.write a 0 bs).byte b o = m.byte b o :=
  Memory.byte_write_outside _ _ _ _ _ _ (h.imp_right fun ho => .inr (by omega))

/-! ### The rest of the RX path (R140, R143) -/

/-- Settles O13. -/
theorem discardReleasesTheEndpoint : Obligations.DiscardReleasesTheEndpoint := by
  unfold Obligations.DiscardReleasesTheEndpoint
  intro ctx s h
  have hrun : exec (.discard ctx) s = .next (discardFrame (entered ctx s)) := asApp_ready h _
  rw [hrun, ← entered_S ctx s, ← entered_T ctx s]
  rfl

theorem exec_onPacketReceived {s : State} {d : List Byte} (h : EventReady s) (hl : s.T.rxLatch = some d) :
    exec .onPacketReceived s = commit s (receivePacket d { s with T := { s.T with rxLatch := none } }) := onEvent_ready h _ hl

theorem receivePacket_frame {s : State} {d : List Byte} (h1 : 1 ≤ d.length) (h2 : d.length ≤ s.cfg.rxBufSize) :
    receivePacket d s = .ok (storeFrame d s) := by
  rw [receivePacket, if_neg h2.not_gt, if_neg (Nat.one_le_iff_ne_zero.1 h1)]

/-- Settles O14: the packet is written at the front of `rx.data`, which has room for it. -/
theorem packetBecomesThePendingFrame : Obligations.PacketBecomesThePendingFrame := by
  unfold Obligations.PacketBecomesThePendingFrame
  intro s d h hl hwf h1 h2
  have hlen : (s.S.mem.area .rxData).length = s.cfg.rxBufSize := (Memory.wf_iff _ _).1 hwf .rxData
  exact ⟨_, by rw [exec_onPacketReceived h hl, receivePacket_frame h1 (by exact h2), commit_ok],
    fun k hk => byte_write_front hk (h2.trans hlen.ge),
    fun a o ho => byte_write_front_outside ho, rfl⟩

/-- Settles O15. -/
theorem emptyAndOversizePackets : Obligations.EmptyAndOversizePackets := by
  unfold Obligations.EmptyAndOversizePackets
  intro s d h hl
  rw [exec_onPacketReceived h hl]
  refine ⟨fun hd => ?_, fun hover => ?_⟩
  · subst hd
    rfl
  · rw [receivePacket, if_pos hover]
    rfl

end Sys2Proof.Machine
end

section
/-! SUPPORT. The TX path's operations in a state that admits them (spec/43_tx_path.md R153-R158, spec/44_notification.md): which bytes
leave, which move, and what a query of the endpoint answers. -/

namespace Sys2Proof.Machine

/-! ### The endpoint's answer (R190) -/

@[simp] theorem endpointFree_entered (ep : InEndpoint) (ctx : Ctx) (s : State) :
    endpointFree ep (entered ctx s) = endpointFree ep s := by cases ctx <;> rfl

theorem endpointFree_eq_false_iff (ep : InEndpoint) (s : State) : endpointFree ep s = false ↔ ¬ EndpointAnswersFree ep s := by
  rw [← endpointFree_iff, Bool.not_eq_true]

/-! ### The bytes of a flush (R153) -/

theorem flushLength_le_txFill (s : State) : flushLength s ≤ s.S.txFill := Nat.min_le_left _ _

/-- The staged bytes lie inside the buffer. -/
abbrev StagedFits (s : State) : Prop := s.S.txFill ≤ (s.S.mem.area .txData).length

theorem stagedFits_of_wf {s : State} (hwf : s.S.mem.wf s.cfg = true) (hfill : s.S.txFill ≤ s.cfg.txBufSize) : StagedFits s := by
  rw [StagedFits, (Memory.wf_iff _ _).1 hwf .txData]
  exact hfill

theorem length_read {m : Memory} {a : Area} {off n : Nat} (h : off + n ≤ (m.area a).length) : (m.read a off n).length = n := by
  rw [Memory.read, List.length_take, List.length_drop]
  omega

/-- A byte of a read is the byte of memory at its offset. -/
theorem getElem_read {m : Memory} {a : Area} {off n k : Nat} (hk : k < (m.read a off n).length) :
    (m.read a off n)[k] = m.byte a (off + k) := by
  have hk' : off + k < (m.area a).length := by
    rw [Memory.read, List.length_take, List.length_drop] at hk
    omega
  rw [Memory.byte_eq, List.getElem?_eq_getElem hk', Option.getD_some]
  simp [Memory.read]

/-- The bytes that stay are moved to the front. -/
theorem shiftStaged_byte_front {s : State} {n k : Nat} (hfit : StagedFits s) (hk : k < s.S.txFill - n) :
    (shiftStaged n s).S.mem.byte .txData k = s.S.mem.byte .txData (n + k) := by
  have hlen : (s.S.mem.read .txData n (s.S.txFill - n)).length = s.S.txFill - n := length_read (by omega)
  have hk' : k < (s.S.mem.read .txData n (s.S.txFill - n)).length := by omega
  exact (byte_write_front (m := s.S.mem) (a := .txData) hk' (by omega)).trans (getElem_read hk')

/-- Every other byte of memory is left alone. -/
theorem shiftStaged_byte_outside {s : State} {n : Nat} {a : Area} {o : Nat}
    (h : a ≠ .txData ∨ s.S.txFill - n ≤ o) : (shiftStaged n s).S.mem.byte a o = s.S.mem.byte a o := by
  refine byte_write_front_outside (h.imp_right fun ho => ?_)
  rw [Memory.read, List.length_take]
  omega

/-! ### The outcomes of a flush -/

theorem flushCore_empty {s : State} (h : s.S.txFill = 0) : flushCore s = s := if_pos h

theorem flushCore_free {s : State} (h : s.S.txFill ≠ 0) (hfree : endpointFree .bulkIn s = true) :
    flushCore s = shiftStaged (flushLength s) (accept .bulkIn (s.S.mem.read .txData 0 (flushLength s)) s.drawn) := by
  rw [flushCore, if_neg h, enqueueTransmit, if_pos hfree]

theorem flushCore_busy {s : State} (h : s.S.txFill ≠ 0) (hbusy : endpointFree .bulkIn s = false) : flushCore s = s.drawn := by
  rw [flushCore, if_neg h, enqueueTransmit, if_neg (Bool.eq_false_iff.1 hbusy)]

theorem exec_flush {ctx : Ctx} {s : State} (h : AppReady ctx s) :
    exec (.flush ctx) s = .next ((flushCore (entered ctx s)).returning .nothing) := asApp_ready h _

/-- Settles O19: the byte goes to `stageOffset`, which entering does not move. -/
theorem writeFastStagesOneByteAndFlushesNothing : Obligations.WriteFastStagesOneByteAndFlushesNothing := by
  unfold Obligations.WriteFastStagesOneByteAndFlushesNothing
  intro ctx b s h hwf hcap
  have hoff : stageOffset (entered ctx s) = stageOffset s := by rw [stageOffset, entered_S, entered_cfg]; rfl
  refine ⟨(stage b (entered ctx s)).returning .nothing, asApp_ready h _, ?_, fun a o ho => ?_, ?_⟩
  · rw [← hoff]
    exact stage_byte_stageOffset b (by rwa [entered_S, entered_cfg]) (by rwa [entered_cfg])
  · rw [← hoff] at ho
    rw [← entered_S ctx s]
    exact stage_byte_of_ne b _ a o ho
  · cases ctx <;> rfl

/-- Settles O21: the three outcomes of a flush; the packet is the front of the buffer, the rest is moved there
(`shiftStaged_byte_front`). -/
theorem flushHandsOverAtMostOnePacket : Obligations.FlushHandsOverAtMostOnePacket := by
  unfold Obligations.FlushHandsOverAtMostOnePacket
  intro ctx s n h hwf hfill hn
  have hfit : StagedFits s := stagedFits_of_wf hwf hfill
  have hlen : flushLength (entered ctx s) = n := by
    rw [hn, flushLength, entered_S, entered_cfg]
    rfl
  rw [exec_flush h]
  refine ⟨fun h0 => ?_, fun h0 hfree => ?_, fun h0 hbusy => ?_⟩
  · rw [flushCore_empty (by rwa [entered_S])]
    rfl
  · have hrun := flushCore_free (s := entered ctx s) (by rw [entered_S]; omega)
      (by rw [endpointFree_entered]; exact (endpointFree_iff _ _).2 hfree)
    rw [hlen] at hrun
    refine ⟨_, rfl, fun k hk => ?_, fun a o ho => ?_, ?_⟩
    · rw [hrun, ← entered_S ctx s]
      exact shiftStaged_byte_front (by simpa [accept] using hfit) (by simpa [accept] using hk)
    · rw [hrun, ← entered_S ctx s]
      exact shiftStaged_byte_outside (by simpa [accept] using ho)
    · rw [hrun]
      cases ctx <;> rfl
  · have hrun := flushCore_busy (s := entered ctx s) (by rw [entered_S]; omega)
      (by rw [endpointFree_entered]; exact (endpointFree_eq_false_iff _ _).2 hbusy)
    rw [hrun]
    cases ctx <;> rfl

/-! ### WRITE_BLOCK (R157) -/

theorem writeBlockRun_free (bs : List Byte) {s : State} (h : endpointFree .bulkIn s = true) :
    writeBlockRun bs s = (flushCore (stageBlock bs s.drawn)).returning (.bool true) := if_pos h

theorem writeBlockRun_busy (bs : List Byte) {s : State} (h : endpointFree .bulkIn s = false) :
    writeBlockRun bs s = s.drawn.returning (.bool false) := if_neg (Bool.eq_false_iff.1 h)

theorem exec_writeBlock {ctx : Ctx} {bs : List Byte} {s : State} (h : AppReady ctx s) :
    exec (.writeBlock ctx bs) s = .next (writeBlockRun bs (entered ctx s)) := asApp_ready h _

theorem length_take_blockLength (bs : List Byte) (s : State) : (bs.take (blockLength s bs)).length = blockLength s bs :=
  List.length_take_of_le ((Nat.min_le_left _ _).trans (Nat.min_le_left _ _))

/-- The staged bytes of a block are its first ones, stored from the fill on. -/
theorem stageBlock_byte_inside {s : State} {bs : List Byte} {j : Nat} (hfit : s.cfg.txBufSize ≤ (s.S.mem.area .txData).length)
    (hfill : s.S.txFill ≤ s.cfg.txBufSize) (hj : j < bs.length) (hk : j < blockLength s bs) :
    (stageBlock bs s).S.mem.byte .txData (s.S.txFill + j) = bs[j] := by
  have hroom : blockLength s bs ≤ s.cfg.txBufSize - s.S.txFill := Nat.min_le_right _ _
  have hlen := length_take_blockLength bs s
  have hbyte := Memory.byte_write_inside s.S.mem .txData s.S.txFill (bs.take (blockLength s bs)) j (by omega) (by omega)
  rwa [List.getElem_take] at hbyte

theorem stageBlock_byte_outside {s : State} {bs : List Byte} {a : Area} {o : Nat}
    (h : a ≠ .txData ∨ o < s.S.txFill ∨ s.S.txFill + blockLength s bs ≤ o) :
    (stageBlock bs s).S.mem.byte a o = s.S.mem.byte a o := by
  refine Memory.byte_write_outside _ _ _ _ _ _ ?_
  rwa [length_take_blockLength]

/-- Settles O22: a busy endpoint stages nothing; a free one stages the block's first bytes and flushes once. -/
theorem writeBlockStagesAPacketsWorthAndFlushes : Obligations.WriteBlockStagesAPacketsWorthAndFlushes := by
  unfold Obligations.WriteBlockStagesAPacketsWorthAndFlushes
  intro ctx bs s k h hwf hfill hk
  rw [exec_writeBlock h]
  refine ⟨fun hbusy => ?_, fun hfree => ?_⟩
  · rw [writeBlockRun_busy bs (by rw [endpointFree_entered]; exact (endpointFree_eq_false_iff _ _).2 hbusy)]
    cases ctx <;> rfl
  · rw [writeBlockRun_free bs (by rw [endpointFree_entered]; exact (endpointFree_iff _ _).2 hfree)]
    have hlen : blockLength (entered ctx s).drawn bs = k := by
      rw [hk, blockLength, State.drawn_cfg, State.drawn_S, entered_cfg, entered_S, Nat.min_assoc]
      rfl
    refine ⟨stageBlock bs (entered ctx s).drawn, rfl, fun j hj hjk => ?_, fun a o ho => ?_, ?_⟩
    · rw [← entered_S ctx s]
      exact stageBlock_byte_inside (s := (entered ctx s).drawn)
        (by simpa [Area.capacity] using ((Memory.wf_iff _ _).1 hwf .txData).ge) (by simpa using hfill) hj (by rwa [hlen])
    · rw [← entered_S ctx s] at ho ⊢
      exact stageBlock_byte_outside (s := (entered ctx s).drawn) (by rwa [hlen])
    · rw [← hlen]
      cases ctx <;> rfl

/-- Settles O23. -/
theorem transmitCompleteCountsDownAndFlushes : Obligations.TransmitCompleteCountsDownAndFlushes := by
  unfold Obligations.TransmitCompleteCountsDownAndFlushes
  exact fun s h hack => onEvent_ready h _ (if_pos hack)

/-! ### The notification (R88, R170, R171) -/

theorem exec_sendSerialState {ctx : Ctx} {st : Byte} {s : State} (h : AppReady ctx s) :
    exec (.sendSerialState ctx st) s = .next (notifySerialState st (entered ctx s)) := asApp_ready h _

/-- Settles O26: the two answers of the enqueue. -/
theorem serialStateIsQueuedOrAnsweredFalse : Obligations.SerialStateIsQueuedOrAnsweredFalse := by
  unfold Obligations.SerialStateIsQueuedOrAnsweredFalse
  intro ctx st s h
  rw [exec_sendSerialState h]
  refine ⟨fun hfree => ?_, fun hbusy => ?_⟩
  · rw [notifySerialState, enqueueTransmit, if_pos (by rw [endpointFree_entered]; exact (endpointFree_iff _ _).2 hfree)]
    cases ctx <;> rfl
  · rw [notifySerialState, enqueueTransmit,
      if_neg (by rw [endpointFree_entered, endpointFree_iff]; exact hbusy)]
    cases ctx <;> rfl

/-- Bit 7 of a masked state byte is 0 and the seven state bits are kept (R89). -/
theorem stateBits_of_mask : ∀ st : Byte, (st &&& 0x7F#8).getLsbD 7 = false ∧
    ∀ k, k < 7 → (st &&& 0x7F#8).getLsbD k = st.getLsbD k := by decide

/-- Settles O27. -/
theorem notificationPacketLayout : Obligations.NotificationPacketLayout := by
  unfold Obligations.NotificationPacketLayout
  exact fun st => ⟨rfl, rfl, ⟨_, rfl, stateBits_of_mask st⟩, rfl⟩

end Sys2Proof.Machine
end

section
/-! SUPPORT. The control requests, the data stages, INITIALIZE, the context operations and the host's, each as an equation
(spec/41_control_requests.md, spec/45_initialize_context.md, spec/46_transport_host.md). -/

namespace Sys2Proof.Machine

/-! ### The requests' own rules (R113-R119) -/

/-- Settles O28. -/
theorem sendEncapsulatedCommandRequestsItsData : Obligations.SendEncapsulatedCommandRequestsItsData := by
  unfold Obligations.SendEncapsulatedCommandRequestsItsData
  exact fun _ _ => rfl

/-- Settles O29. -/
theorem getEncapsulatedCommandSendsTheStoredBytes : Obligations.GetEncapsulatedCommandSendsTheStoredBytes := by
  unfold Obligations.GetEncapsulatedCommandSendsTheStoredBytes
  exact fun _ _ => rfl

/-- Settles O31. -/
theorem getLineCodingSendsTheImage : Obligations.GetLineCodingSendsTheImage := by
  unfold Obligations.GetLineCodingSendsTheImage
  exact fun r s => exec_getLineCoding r s

/-- Bit `k` of a value is its mask with the `k`-th power of two (R84). -/
theorem getLsbD_eq_mask (w : Word) {k : Nat} (hk : k < 16) :
    w.getLsbD k = decide (w &&& BitVec.twoPow 16 k = BitVec.twoPow 16 k) := by
  rw [BitVec.and_twoPow]
  cases hb : w.getLsbD k with
  | true => simp
  | false =>
    have hne : (0#16 : Word) ≠ BitVec.twoPow 16 k := fun h => by
      have hbit := congrArg (fun x : Word => x.getLsbD k) h
      simp [hk] at hbit
    simp [hne]

theorem carrierDteOf_eq (w : Word) : carrierDteOf w = w.getLsbD 0 := by simp [carrierDteOf]

theorem carrierActOf_eq (w : Word) : carrierActOf w = w.getLsbD 1 := by simp [carrierActOf]

theorem exec_setControlLineState (r : Request) (s : State) :
    exec (.setControlLineState r) s =
      .next (sendZeroLengthStatus
        { s with S := { s.S with carrierDte := carrierDteOf r.wValue, carrierAct := carrierActOf r.wValue } }) := rfl

/-- Settles O32: the carrier flags are two bits of wValue (`getLsbD_eq_mask`). -/
theorem setControlLineStateSetsTheCarrierFlags : Obligations.SetControlLineStateSetsTheCarrierFlags := by
  unfold Obligations.SetControlLineStateSetsTheCarrierFlags
  intro r s
  rw [exec_setControlLineState, carrierDteOf_eq, carrierActOf_eq, getLsbD_eq_mask _ (by decide), getLsbD_eq_mask _ (by decide)]
  rfl

/-- A packet's request, run alone, is the rule ON_SETUP_RECEIVED dispatches it to (R112). -/
theorem exec_decodeSetup (p : Setup) (s : State) : exec (decodeSetup s.cfg p) s = .next (runRequest p s) := by
  unfold decodeSetup runRequest
  cases requestKind s.cfg p <;> rfl

/-- The state in which ON_SETUP_RECEIVED runs its request: the packet taken, `cs` Idle (R110, R200). -/
def setupTaken (s : State) : State := State.setCs .idle { s with T := { s.T with setupLatch := none } }

/-- ON_SETUP_RECEIVED is its packet's request, run from Idle. -/
theorem exec_onSetupReceived {s : State} {p : Setup} (h : EventReady s) (hl : s.T.setupLatch = some p) :
    exec .onSetupReceived s = exec (decodeSetup s.cfg p) (setupTaken s) :=
  (onEvent_ready h _ hl).trans (exec_decodeSetup p (setupTaken s)).symm

/-- Settles O35: the event runs the rule its packet is dispatched to (`exec_decodeSetup`). -/
theorem setupEventRunsItsRequest : Obligations.SetupEventRunsItsRequest := by
  unfold Obligations.SetupEventRunsItsRequest
  intro s p h hl
  have hrule := exec_decodeSetup p (setupTaken s)
  exact ⟨_, (exec_onSetupReceived h hl).trans hrule, hrule⟩

/-! ### The data stages (R121-R126) -/

theorem exec_onDataStageComplete {s : State} {d : List Byte} (h : EventReady s) (hl : s.T.dsLatch = some d) :
    exec .onDataStageComplete s = commit s (completeDataStage d { s with T := { s.T with dsLatch := none } }) :=
  onEvent_ready h _ hl

section DataStage

variable {s : State} {d : List Byte}

theorem completeDataStage_encap (hcs : s.S.cs = .awaitingEncapsulatedCommand) (hd : d.length ≤ 8) :
    completeDataStage d s = .ok (finishEncap d.length (storeEncap d s)) := by
  simp only [completeDataStage, hcs, hd.not_gt, if_false]

theorem completeDataStage_encap_long (hcs : s.S.cs = .awaitingEncapsulatedCommand) (hd : 8 < d.length) :
    completeDataStage d s = .error .dataStageLength := by
  simp only [completeDataStage, hcs, hd, if_true]

theorem completeDataStage_line (hcs : s.S.cs = .awaitingLineCoding) (hd : d.length = 7) :
    completeDataStage d s = .ok (storeLineCoding d s) := by
  simp only [completeDataStage, hcs, hd, ne_eq, not_true_eq_false, if_false]

theorem completeDataStage_line_wrong (hcs : s.S.cs = .awaitingLineCoding) (hd : d.length ≠ 7) :
    completeDataStage d s = .error .dataStageLength := by
  simp only [completeDataStage, hcs, hd, ne_eq, not_false_eq_true, if_true]

theorem completeDataStage_ack (hcs : s.S.cs = .awaitingZeroLengthAck) :
    completeDataStage d s = .ok ((sendZeroLengthStatus s).setCs .idle) := by
  simp only [completeDataStage, hcs]

theorem completeDataStage_idle (hcs : s.S.cs = .idle) : completeDataStage d s = .ok s := by
  simp only [completeDataStage, hcs]

end DataStage

theorem finishEncap_full {n : Nat} {s : State} (h : n = s.cfg.ep0Mps) :
    finishEncap n s = requestDataStage 0 (s.setCs .awaitingZeroLengthAck) := if_pos h

theorem finishEncap_short {n : Nat} {s : State} (h : n ≠ s.cfg.ep0Mps) :
    finishEncap n s = (sendZeroLengthStatus s).setCs .idle := if_neg h

/-- Settles O37: the bytes are written at the front of `encap`, which has 8; how the stage ends depends on EP0_MPS alone. -/
theorem encapsulatedCommandIsStored : Obligations.EncapsulatedCommandIsStored := by
  unfold Obligations.EncapsulatedCommandIsStored
  intro s d h hl hwf hcs hd
  have hlen : (s.S.mem.area .encap).length = 8 := (Memory.wf_iff _ _).1 hwf .encap
  refine ⟨_, by rw [exec_onDataStageComplete h hl, completeDataStage_encap (by exact hcs) hd, commit_ok], fun k hk => ?_, fun a o ho => ?_,
    fun hmps => ?_, fun hmps => ?_⟩
  · rw [finishEncap_mem]
    exact byte_write_front hk (hd.trans hlen.ge)
  · rw [finishEncap_mem]
    exact byte_write_front_outside ho
  · rw [finishEncap_full (by exact hmps)]
    rfl
  · rw [finishEncap_short (by exact hmps)]
    rfl

/-- Settles O38. -/
theorem lineCodingIsStoredRaw : Obligations.LineCodingIsStoredRaw := by
  unfold Obligations.LineCodingIsStoredRaw
  intro s d h hl hcs hd
  rw [exec_onDataStageComplete h hl, completeDataStage_line (by exact hcs) hd]
  rfl

/-- Settles O39. -/
theorem otherDataStagesStoreNothing : Obligations.OtherDataStagesStoreNothing := by
  unfold Obligations.OtherDataStagesStoreNothing
  intro s d h hl
  rw [exec_onDataStageComplete h hl]
  refine ⟨fun hcs => ?_, fun hcs => ?_⟩
  · rw [completeDataStage_ack (by exact hcs)]
    rfl
  · rw [completeDataStage_idle (by exact hcs), commit_ok]

/-- Settles O40. -/
theorem wrongDataStageLengthFaults : Obligations.WrongDataStageLengthFaults := by
  unfold Obligations.WrongDataStageLengthFaults
  intro s d h hl hwrong
  rw [exec_onDataStageComplete h hl]
  rcases hwrong with ⟨hcs, hd⟩ | ⟨hcs, hd⟩
  · rw [completeDataStage_encap_long (by exact hcs) hd]
    rfl
  · rw [completeDataStage_line_wrong (by exact hcs) hd]
    rfl

/-! ### INITIALIZE and the context operations (R180-R184) -/

theorem exec_initializeBlock {ctx : Ctx} {s : State} (hf : s.S.fault = none) (ho : ctxOpen ctx s = true) :
    exec (.initializeBlock ctx) s = .next ((initializedState (entered ctx s)).returning .nothing) := asApp_open hf ho _

/-- Settles O41. -/
theorem initializeWritesExactlyItsFields : Obligations.InitializeWritesExactlyItsFields := by
  unfold Obligations.InitializeWritesExactlyItsFields
  intro ctx s hf ho
  rw [exec_initializeBlock hf ho, ← entered_S ctx s]
  rfl

/-- Settles O42: what INITIALIZE writes over its own result is what stands there. -/
theorem initializeTwiceIsOnce : Obligations.InitializeTwiceIsOnce := by
  unfold Obligations.InitializeTwiceIsOnce
  intro c c' s t h ho
  obtain ⟨hf, -, ht | ⟨_, ht, -⟩⟩ := asApp_enters h <;> cases ht
  rw [exec_initializeBlock (by simpa [initializedState] using hf) ho]
  cases c' <;> rfl

/-- Settles O43. -/
theorem maskUnmaskAndPoll : Obligations.MaskUnmaskAndPoll := by
  unfold Obligations.MaskUnmaskAndPoll
  intro s hf ho
  rw [exec_maskIrq, exec_unmaskIrq, exec_poll, asMain_open hf ho, asMain_open hf ho, asMain_open hf ho]
  exact ⟨rfl, rfl, rfl⟩

/-! ### The host and the bus (R204-R209) -/

/-- Settles O49: each operation under its own guard (`asEnv_open`); an acknowledged queue gives its head. -/
theorem hostOperationsChangeTheTransport : Obligations.HostOperationsChangeTheTransport := by
  unfold Obligations.HostOperationsChangeTheTransport
  intro s hf
  refine ⟨fun p => asEnvAlways_open hf, asEnvAlways_open hf, fun d hreq hds => asEnv_open hf ?_,
    fun d harm hrx hd => asEnv_open hf ?_, fun p q hq => (asEnv_open hf ?_).trans ?_, fun p q hq => (asEnv_open hf ?_).trans ?_⟩
  · simp [dataOutGuard, hreq, hds]
  · simp [bulkOutGuard, harm, hrx, outCapacity, hd]
  · simp [hq]
  · simp [ackBulkIn, hq]
  · simp [hq]
  · simp [ackIntIn, hq]

end Sys2Proof.Machine
end

section
/-! SUPPORT. Which part of the state an operation touches. The state is cut into the receive path, the transmit path, what the control
requests keep, the control endpoint, the notification endpoint, the log and the host record; every operation leaves alone the parts
its row of `touches` does not name. An invariant that reads one part is then a statement about the few operations that touch it. -/

namespace Sys2Proof.Machine

/-! ### The parts -/

/-- The receive path (spec/42_rx_path.md): the frame, its cursor and the OUT endpoint. -/
structure RxPart where
  data : List Byte
  len : Nat
  cur : Nat
  pend : Bool
  armed : Bool
  latch : Option (List Byte)

/-- The transmit path (spec/43_tx_path.md): the staging buffer, what is in flight, and what the host has received. -/
structure TxPart where
  data : List Byte
  fill : Nat
  inflight : Nat
  queue : List (List Byte)
  acked : Nat
  host : List (List Byte)

/-- What the control requests keep (spec/41_control_requests.md) and the control state. -/
structure ControlPart where
  encap : List Byte
  lc : List Byte
  carrierDte : Bool
  carrierAct : Bool
  brk : Word
  conn : Bool
  cs : ControlState

/-- The control endpoint (spec/46_transport_host.md): the SETUP packet, the requested data stage and the data stage that came. -/
structure EndpointPart where
  setup : Option Setup
  req : Option Nat
  stage : Option (List Byte)

/-- The notification endpoint (spec/44_notification.md). -/
structure NotifyPart where
  queue : List (List Byte)
  host : List (List Byte)

def rxPart (s : State) : RxPart := ⟨s.S.mem.rxData, s.S.rxLen, s.S.rxCur, s.S.rxPend, s.T.rxArmed, s.T.rxLatch⟩

def txPart (s : State) : TxPart :=
  ⟨s.S.mem.txData, s.S.txFill, s.S.txInflight, s.T.bulkInQ, s.T.bulkInAcked, s.H.bulkIn⟩

def controlPart (s : State) : ControlPart :=
  ⟨s.S.mem.encap, s.S.mem.lc, s.S.carrierDte, s.S.carrierAct, s.S.brk, s.S.conn, s.S.cs⟩

def endpointPart (s : State) : EndpointPart := ⟨s.T.setupLatch, s.T.ep0Req, s.T.dsLatch⟩

def notifyPart (s : State) : NotifyPart := ⟨s.T.intInQ, s.H.notif⟩

theorem rxPart_eq_iff {s t : State} : rxPart t = rxPart s ↔
    t.S.mem.rxData = s.S.mem.rxData ∧ t.S.rxLen = s.S.rxLen ∧ t.S.rxCur = s.S.rxCur ∧ t.S.rxPend = s.S.rxPend ∧
      t.T.rxArmed = s.T.rxArmed ∧ t.T.rxLatch = s.T.rxLatch := by simp [rxPart]

theorem txPart_eq_iff {s t : State} : txPart t = txPart s ↔
    t.S.mem.txData = s.S.mem.txData ∧ t.S.txFill = s.S.txFill ∧ t.S.txInflight = s.S.txInflight ∧
      t.T.bulkInQ = s.T.bulkInQ ∧ t.T.bulkInAcked = s.T.bulkInAcked ∧ t.H.bulkIn = s.H.bulkIn := by simp [txPart]

theorem controlPart_eq_iff {s t : State} : controlPart t = controlPart s ↔
    t.S.mem.encap = s.S.mem.encap ∧ t.S.mem.lc = s.S.mem.lc ∧ t.S.carrierDte = s.S.carrierDte ∧
      t.S.carrierAct = s.S.carrierAct ∧ t.S.brk = s.S.brk ∧ t.S.conn = s.S.conn ∧ t.S.cs = s.S.cs := by simp [controlPart]

theorem endpointPart_eq_iff {s t : State} : endpointPart t = endpointPart s ↔
    t.T.setupLatch = s.T.setupLatch ∧ t.T.ep0Req = s.T.ep0Req ∧ t.T.dsLatch = s.T.dsLatch := by simp [endpointPart]

theorem notifyPart_eq_iff {s t : State} : notifyPart t = notifyPart s ↔
    t.T.intInQ = s.T.intInQ ∧ t.H.notif = s.H.notif := by simp [notifyPart]

/-! ### Leaving parts alone -/

/-- The names of the parts. -/
inductive Part where
  | rx
  | tx
  | control
  | endpoint
  | notify
  | log
  | host
deriving DecidableEq

/-- All parts are the same; the marks and the context may differ. -/
structure SameParts (s t : State) : Prop where
  cfg : t.cfg = s.cfg
  rx : rxPart t = rxPart s
  tx : txPart t = txPart s
  control : controlPart t = controlPart s
  endpoint : endpointPart t = endpointPart s
  notify : notifyPart t = notifyPart s
  log : t.T.log = s.T.log
  host : t.H = s.H

/-- From `s` to `t` only the parts `ps` may have changed. The parameters and two of the marks have not, INITIALIZE's mark is not
cleared, and the log only grows. -/
structure KeepsBut (ps : List Part) (s t : State) : Prop where
  cfg : t.cfg = s.cfg
  fault : t.S.fault = s.S.fault
  refused : t.S.refused = s.S.refused
  init : s.S.init = true → t.S.init = true
  grows : s.T.log <+: t.T.log
  rx : .rx ∉ ps → rxPart t = rxPart s
  tx : .tx ∉ ps → txPart t = txPart s
  control : .control ∉ ps → controlPart t = controlPart s
  endpoint : .endpoint ∉ ps → endpointPart t = endpointPart s
  notify : .notify ∉ ps → notifyPart t = notifyPart s
  log : .log ∉ ps → t.T.log = s.T.log
  host : .host ∉ ps → t.H = s.H

theorem KeepsBut.trans {ps : List Part} {s t u : State} (h : KeepsBut ps s t) (h' : KeepsBut ps t u) : KeepsBut ps s u where
  cfg := h'.cfg.trans h.cfg
  fault := h'.fault.trans h.fault
  refused := h'.refused.trans h.refused
  init := h'.init ∘ h.init
  grows := h.grows.trans h'.grows
  rx hp := (h'.rx hp).trans (h.rx hp)
  tx hp := (h'.tx hp).trans (h.tx hp)
  control hp := (h'.control hp).trans (h.control hp)
  endpoint hp := (h'.endpoint hp).trans (h.endpoint hp)
  notify hp := (h'.notify hp).trans (h.notify hp)
  log hp := (h'.log hp).trans (h.log hp)
  host hp := (h'.host hp).trans (h.host hp)

theorem KeepsBut.same {s t : State} (h : KeepsBut [] s t) : SameParts s t :=
  ⟨h.cfg, h.rx List.not_mem_nil, h.tx List.not_mem_nil, h.control List.not_mem_nil,
    h.endpoint List.not_mem_nil, h.notify List.not_mem_nil, h.log List.not_mem_nil, h.host List.not_mem_nil⟩

/-- A write of the context, the returned value, the draws or the schedule touches no part. -/
theorem keepsBut_of_eq (ps : List Part) {s t : State} (hc : t.cfg = s.cfg) (hS : t.S = s.S) (hT : t.T = s.T) (hH : t.H = s.H) :
    KeepsBut ps s t := by
  constructor <;> simp [rxPart, txPart, controlPart, endpointPart, notifyPart, hc, hS, hT, hH]

theorem keepsBut_entered (ps : List Part) (ctx : Ctx) (s : State) : KeepsBut ps s (entered ctx s) :=
  keepsBut_of_eq ps (entered_cfg ctx s) (entered_S ctx s) (entered_T ctx s) (entered_H ctx s)

theorem keepsBut_readTake (s : State) : KeepsBut [.rx, .log] s (readTake s) := by
  obtain ⟨_, _, _, _, h⟩ := readTake_frame s
  rw [h]
  constructor <;> simp [txPart, controlPart, endpointPart, notifyPart]

theorem keepsBut_discardFrame (s : State) : KeepsBut [.rx, .log] s (discardFrame s) := by
  constructor <;> simp [discardFrame, txPart, controlPart, endpointPart, notifyPart]

theorem keepsBut_storeFrame (d : List Byte) (s : State) : KeepsBut [.rx, .log] s (storeFrame d s) := by
  constructor <;> simp [storeFrame, txPart, controlPart, endpointPart, notifyPart, Memory.write, Memory.setArea]

theorem keepsBut_stage (b : Byte) (s : State) : KeepsBut [.tx] s (stage b s) := by
  constructor <;> simp [stage, rxPart, controlPart, endpointPart, notifyPart, Memory.write, Memory.setArea]

theorem keepsBut_flushCore (s : State) : KeepsBut [.tx, .log] s (flushCore s) := by
  obtain ⟨_, _, _, _, _, _, h⟩ := flushCore_frame s
  rw [h]
  constructor <;> simp [rxPart, controlPart, endpointPart, notifyPart]

theorem keepsBut_writeStaged (b : Byte) (s : State) : KeepsBut [.tx, .log] s (writeStaged b s) := by
  obtain ⟨_, _, _, _, _, _, h⟩ := writeStaged_frame b s
  rw [h]
  constructor <;> simp [rxPart, controlPart, endpointPart, notifyPart]

theorem keepsBut_writeBlockRun (bs : List Byte) (s : State) : KeepsBut [.tx, .log] s (writeBlockRun bs s) := by
  obtain ⟨_, _, _, _, _, _, _, h⟩ := writeBlockRun_frame bs s
  rw [h]
  constructor <;> simp [rxPart, controlPart, endpointPart, notifyPart]

theorem keepsBut_notifySerialState (st : Byte) (s : State) : KeepsBut [.notify, .log] s (notifySerialState st s) := by
  obtain ⟨_, _, _, _, h⟩ := notifySerialState_frame st s
  rw [h]
  constructor <;> simp [rxPart, txPart, controlPart, endpointPart]

theorem keepsBut_runRequest (p : Setup) (s : State) : KeepsBut [.control, .endpoint, .log] s (runRequest p s) := by
  obtain ⟨_, _, _, _, _, _, h⟩ := runRequest_frame p s
  rw [h]
  constructor <;> simp [rxPart, txPart, notifyPart]

theorem keepsBut_finishEncap (n : Nat) (s : State) : KeepsBut [.control, .endpoint, .log] s (finishEncap n s) := by
  obtain ⟨_, _, _, h⟩ := finishEncap_frame n s
  rw [h]
  constructor <;> simp [rxPart, txPart, notifyPart]

theorem keepsBut_initializedState (s : State) : KeepsBut [.rx, .tx, .control] s (initializedState s) := by
  constructor <;> simp [initializedState, endpointPart, notifyPart]

/-! ### What each operation touches -/

/-- The parts an operation may change. -/
def touches : Instr → List Part
  | .read _ | .discard _ | .onPacketReceived => [.rx, .log]
  | .hostBulkOut _ => [.rx]
  | .writeBlocking _ _ | .writeBlock _ _ | .flush _ | .onTransmitComplete => [.tx, .log]
  | .writeFast _ _ => [.tx]
  | .hostAckBulkIn => [.tx, .host]
  | .sendSerialState _ _ => [.notify, .log]
  | .hostAckIntIn => [.notify, .host]
  | .onSetupReceived | .onDataStageComplete => [.control, .endpoint, .log]
  | .sendEncapsulatedCommand _ | .setLineCoding _ => [.control, .endpoint, .log]
  | .setControlLineState _ | .sendBreak _ => [.control, .log]
  | .getEncapsulatedCommand _ | .getLineCoding _ => [.log]
  | .ctrlOther _ => [.endpoint, .log]
  | .hostSetup _ | .hostDataOut _ => [.endpoint]
  | .initializeBlock _ => [.rx, .tx, .control]
  | .busReset => [.rx, .tx, .endpoint, .notify]
  | .hasData _ | .availableSpace _ | .isEmpty _ | .getLineCodingApp _ | .getCarrier _ | .getBreak _ | .isConnected _ => []
  | .maskIrq | .unmaskIrq | .poll => []

/-- Every effect keeps the parts its operation does not touch. -/
theorem effect_frame {i : Instr} {s t : State} (h : Effect i s t) : KeepsBut (touches i) s t := by
  cases i
  case read ctx =>
    obtain ⟨-, _, ⟨-, rfl⟩, ⟨-, rfl⟩ | ⟨-, rfl⟩⟩ := h
    · exact (keepsBut_entered _ ctx s).trans (keepsBut_readTake _)
    · exact (keepsBut_entered _ ctx s).trans (keepsBut_of_eq _ rfl rfl rfl rfl)
  case discard ctx =>
    obtain ⟨-, _, ⟨-, rfl⟩, rfl⟩ := h
    exact (keepsBut_entered _ ctx s).trans (keepsBut_discardFrame _)
  case onPacketReceived =>
    obtain ⟨-, -, d, -, -, ⟨-, rfl⟩ | ⟨-, rfl⟩⟩ := h
    · constructor <;> simp [touches, txPart, controlPart, endpointPart, notifyPart]
    · refine KeepsBut.trans ?_ (keepsBut_storeFrame d _)
      constructor <;> simp [touches, txPart, controlPart, endpointPart, notifyPart]
  case writeBlocking ctx b =>
    obtain ⟨-, _, ⟨-, rfl⟩, ⟨-, rfl⟩ | ⟨-, rfl⟩⟩ := h
    · exact (keepsBut_entered _ ctx s).trans (keepsBut_writeStaged b _)
    · exact (keepsBut_entered _ ctx s).trans (keepsBut_of_eq _ rfl rfl rfl rfl)
  case writeFast ctx b =>
    obtain ⟨-, _, ⟨-, rfl⟩, rfl⟩ := h
    exact ((keepsBut_entered _ ctx s).trans (keepsBut_stage b _)).trans (keepsBut_of_eq _ rfl rfl rfl rfl)
  case writeBlock ctx bs =>
    obtain ⟨-, _, ⟨-, rfl⟩, rfl⟩ := h
    exact (keepsBut_entered _ ctx s).trans (keepsBut_writeBlockRun bs _)
  case flush ctx =>
    obtain ⟨-, _, ⟨-, rfl⟩, rfl⟩ := h
    exact ((keepsBut_entered _ ctx s).trans (keepsBut_flushCore _)).trans (keepsBut_of_eq _ rfl rfl rfl rfl)
  case onTransmitComplete =>
    obtain ⟨-, -, -, rfl⟩ := h
    refine KeepsBut.trans ?_ (keepsBut_flushCore _)
    constructor <;> simp [touches, rxPart, controlPart, endpointPart, notifyPart]
  case sendSerialState ctx st =>
    obtain ⟨-, _, ⟨-, rfl⟩, rfl⟩ := h
    exact (keepsBut_entered _ ctx s).trans (keepsBut_notifySerialState st _)
  case initializeBlock ctx =>
    obtain ⟨_, ⟨-, rfl⟩, rfl⟩ := h
    exact ((keepsBut_entered _ ctx s).trans (keepsBut_initializedState _)).trans (keepsBut_of_eq _ rfl rfl rfl rfl)
  case hasData ctx | availableSpace ctx | isEmpty ctx | getLineCodingApp ctx | getCarrier ctx | getBreak ctx | isConnected ctx =>
    obtain ⟨-, _, ⟨-, rfl⟩, rfl⟩ := h
    exact (keepsBut_entered _ ctx s).trans (keepsBut_of_eq _ rfl rfl rfl rfl)
  case maskIrq | unmaskIrq | poll =>
    obtain ⟨-, rfl⟩ := h
    exact keepsBut_of_eq _ rfl rfl rfl rfl
  case onSetupReceived =>
    obtain ⟨-, -, p, -, rfl⟩ := h
    refine KeepsBut.trans ?_ (keepsBut_runRequest p _)
    constructor <;> simp [touches, rxPart, txPart, notifyPart]
  case onDataStageComplete =>
    obtain ⟨-, -, d, -, ⟨-, -, rfl⟩ | ⟨-, -, rfl⟩ | ⟨-, rfl⟩ | ⟨-, rfl⟩⟩ := h
    · refine KeepsBut.trans ?_ (keepsBut_finishEncap _ _)
      constructor <;> simp [touches, storeEncap, rxPart, txPart, notifyPart, Memory.write, Memory.setArea]
    · constructor <;> simp [touches, storeLineCoding, rxPart, txPart, notifyPart, Memory.setArea]
    · constructor <;> simp [touches, rxPart, txPart, notifyPart]
    · constructor <;> simp [touches, rxPart, txPart, notifyPart]
  case busReset | hostSetup p =>
    obtain rfl := h
    constructor <;> simp [touches, rxPart, txPart, controlPart, notifyPart]
  case hostDataOut d =>
    obtain ⟨-, -, rfl⟩ := h
    constructor <;> simp [touches, rxPart, txPart, controlPart, notifyPart]
  case hostBulkOut d =>
    obtain ⟨-, -, -, rfl⟩ := h
    constructor <;> simp [touches, txPart, controlPart, endpointPart, notifyPart]
  case hostAckBulkIn =>
    obtain ⟨-, rfl⟩ := h
    constructor <;> simp [touches, ackBulkIn, rxPart, controlPart, endpointPart, notifyPart]
  case hostAckIntIn =>
    obtain ⟨-, rfl⟩ := h
    constructor <;> simp [touches, ackIntIn, rxPart, txPart, controlPart, endpointPart]
  case sendEncapsulatedCommand | setLineCoding | setControlLineState | sendBreak | getEncapsulatedCommand | getLineCoding | ctrlOther =>
    obtain rfl := h
    constructor <;>
      simp [touches, rxPart, txPart, controlPart, endpointPart, notifyPart, runSendEncapsulatedCommand, runGetEncapsulatedCommand, runSetLineCoding,
        runGetLineCoding, runSetControlLineState, runSendBreak, runCtrlOther]

/-! ### From effects to operations, and from operations to steps -/

theorem sameParts_raiseFault (r : FaultReason) (s : State) : SameParts s (raiseFault r s) := ⟨rfl, rfl, rfl, rfl, rfl, rfl, rfl, rfl⟩

theorem sameParts_refuseWord (s : State) : SameParts s (refuseWord s) := ⟨rfl, rfl, rfl, rfl, rfl, rfl, rfl, rfl⟩

theorem sameParts_of_eq {s t : State} (hc : t.cfg = s.cfg) (hS : t.S = s.S) (hT : t.T = s.T) (hH : t.H = s.H) : SameParts s t :=
  (keepsBut_of_eq [] hc hS hT hH).same

section Keeps

variable {P : State → Prop} (same : ∀ {s t}, SameParts s t → P s → P t)
include same

/-- An operation keeps what depends on the parts alone if its effect keeps it: a fault changes no part. -/
theorem exec_keeps {i : Instr} {s t : State} (heff : Effect i s t → P s → P t) (h : exec i s = .next t) (hs : P s) : P t := by
  rcases exec_next h with ⟨r, -, rfl⟩ | he
  · exact same (sameParts_raiseFault r s) hs
  · exact heff he hs

/-- A step keeps it if the effects of the operations `ok` allows and the two resumed requests do. -/
theorem step_keeps {ok : Instr → Prop} (heff : ∀ {i s t}, ok i → Effect i s t → P s → P t)
    (hread : ∀ {s}, s.S.rxPend = true → P s → P (readTake s))
    (hwrite : ∀ {b s}, s.S.txFill < s.cfg.txBufSize → P s → P (writeStaged b s))
    {s t : State} (h : step s = .next t) (hok : ∀ i, nextOp s = some i → ok i) (hs : P s) : P t := by
  have hpop : P s.popTurn := same (s := s) (t := s.popTurn) (sameParts_of_eq rfl rfl rfl rfl) hs
  have hready : P (s.popTurn.setMain .ready) := same (s := s.popTurn) (sameParts_of_eq rfl rfl rfl rfl) hpop
  obtain ⟨-, ⟨i, hi, he⟩ | ⟨-, -, hr⟩ | ⟨-, -, rfl⟩⟩ := step_nextOp h
  · exact exec_keeps same (heff (hok i hi)) he hpop
  · obtain ⟨-, ⟨-, hp, rfl⟩ | ⟨b, -, hroom, rfl⟩⟩ := resumeMain_next hr
    · exact hread hp hready
    · exact hwrite hroom hready
  · exact same (sameParts_refuseWord _) hpop

end Keeps

end Sys2Proof.Machine
end

section
/-! SUPPORT. Who writes what: for each field that a statement follows, the operations that may change it and the value they leave
(spec/10_state.md sections 2 and 6, spec/41_control_requests.md section 3). -/

namespace Sys2Proof.Machine

/-! ### The request inside ON_SETUP_RECEIVED -/

/-- The rule a packet is dispatched to has the effect of the packet's request (R112). -/
theorem effect_runRequest (p : Setup) (s : State) : Effect (decodeSetup s.cfg p) s (runRequest p s) := by
  unfold decodeSetup runRequest
  cases requestKind s.cfg p <;> rfl

theorem targetsCdc_of_requestKind {c : Config} {p : Setup} (h : requestKind c p ≠ .other) :
    TargetsCdc c p ∧ requestKind c p = kindOfCode p.bRequest := by
  have ht : TargetsCdc c p := not_imp_comm.1 requestKind_of_not_targetsCdc h
  exact ⟨ht, requestKind_of_targetsCdc ht⟩

theorem bRequest_of_decodeSetup_sendBreak {c : Config} {p : Setup} {r : Request} (h : decodeSetup c p = .sendBreak r) :
    TargetsCdc c p ∧ p.bRequest = 0x23 ∧ r = p.request := by
  have hcode : ∀ b, kindOfCode b = .sendBreak → b = 0x23 := by decide
  unfold decodeSetup at h
  cases hk : requestKind c p <;> simp only [hk] at h <;> cases h
  obtain ⟨ht, hkind⟩ := targetsCdc_of_requestKind (c := c) (p := p) (by rw [hk]; nofun)
  exact ⟨ht, hcode _ (hkind.symm.trans hk), rfl⟩

theorem bRequest_of_decodeSetup_setControlLineState {c : Config} {p : Setup} {r : Request}
    (h : decodeSetup c p = .setControlLineState r) : p.bRequest = 0x22 ∧ r = p.request := by
  have hcode : ∀ b, kindOfCode b = .setControlLineState → b = 0x22 := by decide
  unfold decodeSetup at h
  cases hk : requestKind c p <;> simp only [hk] at h <;> cases h
  obtain ⟨-, hkind⟩ := targetsCdc_of_requestKind (c := c) (p := p) (by rw [hk]; nofun)
  exact ⟨hcode _ (hkind.symm.trans hk), rfl⟩

/-! ### Requests (R113-R119) -/

section Request

variable {i : Instr} {s t : State}

/-- A request changes neither the connection flag nor the stored bytes, and `brk` and the carrier flags only by their own request. -/
theorem request_writers (hr : i.isRequest = true) (h : Effect i s t) :
    t.S.conn = s.S.conn ∧ t.S.mem = s.S.mem ∧
      (t.S.brk = s.S.brk ∨ ∃ r, i = .sendBreak r ∧ t.S.brk = r.wValue) ∧
      ((t.S.carrierDte = s.S.carrierDte ∧ t.S.carrierAct = s.S.carrierAct) ∨
        ∃ r, i = .setControlLineState r ∧ t.S.carrierDte = r.wValue.getLsbD 0 ∧ t.S.carrierAct = r.wValue.getLsbD 1) := by
  cases i
  case sendBreak r =>
    cases h
    exact ⟨rfl, rfl, .inr ⟨r, rfl, rfl⟩, .inl ⟨rfl, rfl⟩⟩
  case setControlLineState r =>
    cases h
    exact ⟨rfl, rfl, .inl rfl, .inr ⟨r, rfl, carrierDteOf_eq _, carrierActOf_eq _⟩⟩
  case sendEncapsulatedCommand | getEncapsulatedCommand | setLineCoding | getLineCoding | ctrlOther =>
    cases h
    exact ⟨rfl, rfl, .inl rfl, .inl ⟨rfl, rfl⟩⟩
  all_goals cases hr

theorem isRequest_decodeSetup (c : Config) (p : Setup) : (decodeSetup c p).isRequest = true := by
  unfold decodeSetup
  cases requestKind c p <;> rfl

end Request

/-! ### Data stages (R121-R126) -/

/-- A completed data stage changes neither `brk` nor the carrier flags; a line coding's sets the connection flag, and only an
encapsulated command's reaches `encap`. -/
theorem dataStage_writers {s t : State} (h : Effect .onDataStageComplete s t) :
    t.S.brk = s.S.brk ∧ t.S.carrierDte = s.S.carrierDte ∧ t.S.carrierAct = s.S.carrierAct ∧
      (t.S.conn = s.S.conn ∨ s.S.cs = .awaitingLineCoding ∧ t.S.conn = true) ∧
      (t.S.mem.encap = s.S.mem.encap ∨ s.S.cs = .awaitingEncapsulatedCommand) := by
  obtain ⟨-, -, d, -, ⟨hcs, -, rfl⟩ | ⟨hcs, -, rfl⟩ | ⟨-, rfl⟩ | ⟨-, rfl⟩⟩ := h
  · obtain ⟨_, _, _, hfin⟩ := finishEncap_frame d.length (storeEncap d { s with T := { s.T with dsLatch := none } })
    rw [hfin]
    exact ⟨rfl, rfl, rfl, .inl rfl, .inr hcs⟩
  · exact ⟨rfl, rfl, rfl, .inr ⟨hcs, rfl⟩, .inl rfl⟩
  · exact ⟨rfl, rfl, rfl, .inl rfl, .inl rfl⟩
  · exact ⟨rfl, rfl, rfl, .inl rfl, .inl rfl⟩

/-! ### The control fields, over every operation -/

section Control

variable {i : Instr} {s t : State}

/-- An effect that changes a control field is that of INITIALIZE, of a request, alone or in ON_SETUP_RECEIVED, or of a data stage. -/
theorem control_writers (h : Effect i s t) :
    controlPart t = controlPart s ∨ (∃ ctx, i = .initializeBlock ctx) ∨ i.isRequest = true ∨ i = .onSetupReceived ∨
      i = .onDataStageComplete := by
  cases i
  case initializeBlock ctx => exact .inr (.inl ⟨ctx, rfl⟩)
  case onSetupReceived => exact .inr (.inr (.inr (.inl rfl)))
  case onDataStageComplete => exact .inr (.inr (.inr (.inr rfl)))
  case sendEncapsulatedCommand | getEncapsulatedCommand | setLineCoding | getLineCoding | setControlLineState | sendBreak
      | ctrlOther =>
    exact .inr (.inr (.inl rfl))
  all_goals exact .inl ((effect_frame h).control (by simp [touches]))

/-- What `request_writers` says of the request inside ON_SETUP_RECEIVED. -/
theorem setupEvent_writers {p : Setup} (hl : s.T.setupLatch = some p) (h : Effect .onSetupReceived s t) :
    t.S.conn = s.S.conn ∧ t.S.mem = s.S.mem ∧
      (t.S.brk = s.S.brk ∨ TargetsCdc s.cfg p ∧ p.bRequest = 0x23 ∧ t.S.brk = p.wValue) ∧
      ((t.S.carrierDte = s.S.carrierDte ∧ t.S.carrierAct = s.S.carrierAct) ∨
        p.bRequest = 0x22 ∧ t.S.carrierDte = p.wValue.getLsbD 0 ∧ t.S.carrierAct = p.wValue.getLsbD 1) := by
  obtain ⟨-, -, p', hl', rfl⟩ := h
  obtain rfl : p = p' := Option.some.inj (hl.symm.trans hl')
  obtain ⟨hconn, hmem, hbrk, hcarrier⟩ := request_writers (isRequest_decodeSetup s.cfg p) (effect_runRequest p (setupTaken s))
  refine ⟨hconn, hmem, hbrk.imp_right ?_, hcarrier.imp_right ?_⟩
  · rintro ⟨r, hr, hb⟩
    obtain ⟨ht, hcode, rfl⟩ := bRequest_of_decodeSetup_sendBreak hr
    exact ⟨ht, hcode, hb⟩
  · rintro ⟨r, hr, hc⟩
    obtain ⟨hcode, rfl⟩ := bRequest_of_decodeSetup_setControlLineState hr
    exact ⟨hcode, hc⟩

/-- `brk`: SendBreak, alone or in ON_SETUP_RECEIVED, and INITIALIZE. -/
theorem brk_writers (h : Effect i s t) :
    t.S.brk = s.S.brk ∨ (∃ r, i = .sendBreak r ∧ t.S.brk = r.wValue) ∨
      (i = .onSetupReceived ∧ ∃ p, s.T.setupLatch = some p ∧ TargetsCdc s.cfg p ∧ p.bRequest = 0x23 ∧ t.S.brk = p.wValue) ∨
      (∃ ctx, i = .initializeBlock ctx) ∧ t.S.brk = 0 := by
  rcases control_writers h with hsame | ⟨ctx, rfl⟩ | hr | rfl | rfl
  · obtain ⟨-, -, -, -, hbrk, -⟩ := controlPart_eq_iff.1 hsame
    exact .inl hbrk
  · obtain ⟨_, -, rfl⟩ := h
    exact .inr (.inr (.inr ⟨⟨ctx, rfl⟩, rfl⟩))
  · obtain ⟨-, -, hbrk, -⟩ := request_writers hr h
    exact hbrk.imp_right .inl
  · obtain ⟨-, -, p, hl, -⟩ := id h
    obtain ⟨-, -, hbrk, -⟩ := setupEvent_writers hl h
    exact hbrk.imp_right fun hb => .inr (.inl ⟨rfl, p, hl, hb⟩)
  · exact .inl (dataStage_writers h).1

/-- `encap`: an encapsulated command's data stage. -/
theorem encap_writers (h : Effect i s t) :
    t.S.mem.encap = s.S.mem.encap ∨ i = .onDataStageComplete ∧ s.S.cs = .awaitingEncapsulatedCommand := by
  rcases control_writers h with hsame | ⟨ctx, rfl⟩ | hr | rfl | rfl
  · exact .inl (controlPart_eq_iff.1 hsame).1
  · obtain ⟨_, ⟨-, rfl⟩, rfl⟩ := h
    exact .inl (by simp [initializedState, Memory.setArea])
  · obtain ⟨-, hmem, -⟩ := request_writers hr h
    exact .inl (by rw [hmem])
  · obtain ⟨-, -, p, hl, -⟩ := id h
    obtain ⟨-, hmem, -⟩ := setupEvent_writers hl h
    exact .inl (by rw [hmem])
  · obtain ⟨-, -, -, -, hencap⟩ := dataStage_writers h
    exact hencap.imp_right fun hcs => ⟨rfl, hcs⟩

/-- `conn`: a line coding's data stage sets it and INITIALIZE clears it. -/
theorem conn_writers (h : Effect i s t) :
    t.S.conn = s.S.conn ∨ (i = .onDataStageComplete ∧ s.S.cs = .awaitingLineCoding ∧ t.S.conn = true) ∨
      (∃ ctx, i = .initializeBlock ctx) ∧ t.S.conn = false := by
  rcases control_writers h with hsame | ⟨ctx, rfl⟩ | hr | rfl | rfl
  · obtain ⟨-, -, -, -, -, hconn, -⟩ := controlPart_eq_iff.1 hsame
    exact .inl hconn
  · obtain ⟨_, -, rfl⟩ := h
    exact .inr (.inr ⟨⟨ctx, rfl⟩, rfl⟩)
  · exact .inl (request_writers hr h).1
  · obtain ⟨-, -, p, hl, -⟩ := id h
    exact .inl (setupEvent_writers hl h).1
  · obtain ⟨-, -, -, hconn, -⟩ := dataStage_writers h
    exact hconn.imp_right fun hc => .inl ⟨rfl, hc⟩

/-- The carrier flags, outside the requests: INITIALIZE clears them. -/
theorem carrier_writers (h : Effect i s t) (hr : i.isRequest = false) (hs : i ≠ .onSetupReceived) :
    (t.S.carrierDte = s.S.carrierDte ∧ t.S.carrierAct = s.S.carrierAct) ∨
      (∃ ctx, i = .initializeBlock ctx) ∧ t.S.carrierDte = false ∧ t.S.carrierAct = false := by
  rcases control_writers h with hsame | ⟨ctx, rfl⟩ | hr' | rfl | rfl
  · obtain ⟨-, -, hdte, hact, -⟩ := controlPart_eq_iff.1 hsame
    exact .inl ⟨hdte, hact⟩
  · obtain ⟨_, -, rfl⟩ := h
    exact .inr ⟨⟨ctx, rfl⟩, rfl, rfl⟩
  · rw [hr] at hr'
    cases hr'
  · exact absurd rfl hs
  · obtain ⟨-, hdte, hact, -⟩ := dataStage_writers h
    exact .inl ⟨hdte, hact⟩

/-- `cs`: the requests, the two events of the control pipe and INITIALIZE. -/
theorem cs_writers (h : Effect i s t) (hr : i.isRequest = false) (hs : i ≠ .onSetupReceived) (hd : i ≠ .onDataStageComplete)
    (hi : ∀ ctx, i ≠ .initializeBlock ctx) : t.S.cs = s.S.cs := by
  rcases control_writers h with hsame | ⟨ctx, rfl⟩ | hr' | rfl | rfl
  · obtain ⟨-, -, -, -, -, -, hcs⟩ := controlPart_eq_iff.1 hsame
    exact hcs
  · exact absurd rfl (hi ctx)
  · rw [hr] at hr'
    cases hr'
  · exact absurd rfl hs
  · exact absurd rfl hd

end Control

/-! ### The receive path's fields -/

section Receive

variable {i : Instr} {s t : State}

/-- `rx.pend`: a packet sets it; READ of a frame's last byte, DISCARD and INITIALIZE clear it. -/
theorem rxPend_writers (h : Effect i s t) :
    t.S.rxPend = s.S.rxPend ∨
      ((i = .onPacketReceived ∧ ∃ d, s.T.rxLatch = some d ∧ d ≠ []) ∧ t.S.rxPend = true) ∨
      ((∃ ctx, i = .read ctx ∧ s.S.rxCur + 1 = s.S.rxLen) ∨ (∃ ctx, i = .discard ctx) ∨ ∃ ctx, i = .initializeBlock ctx) ∧
        t.S.rxPend = false := by
  cases i
  case read ctx =>
    obtain ⟨-, _, ⟨-, rfl⟩, ⟨-, rfl⟩ | ⟨-, rfl⟩⟩ := h
    · rcases readTake_cases (entered ctx s) with ⟨hlast, ht⟩ | ⟨-, ht⟩ <;> rw [ht]
      · exact .inr (.inr ⟨.inl ⟨ctx, rfl, by simpa using hlast⟩, rfl⟩)
      · exact .inl (by simp)
    · exact .inl (by simp)
  case discard ctx =>
    obtain ⟨-, _, -, rfl⟩ := h
    exact .inr (.inr ⟨.inr (.inl ⟨ctx, rfl⟩), rfl⟩)
  case initializeBlock ctx =>
    obtain ⟨_, -, rfl⟩ := h
    exact .inr (.inr ⟨.inr (.inr ⟨ctx, rfl⟩), rfl⟩)
  case onPacketReceived =>
    obtain ⟨-, -, d, hl, -, ⟨-, rfl⟩ | ⟨hd, rfl⟩⟩ := h
    · exact .inl rfl
    · exact .inr (.inl ⟨⟨rfl, d, hl, List.ne_nil_of_length_pos hd⟩, rfl⟩)
  case hostBulkOut =>
    obtain ⟨-, -, -, rfl⟩ := h
    exact .inl rfl
  case busReset =>
    cases h
    exact .inl rfl
  all_goals
    obtain ⟨-, -, -, hpend, -⟩ := rxPart_eq_iff.1 ((effect_frame h).rx (by simp [touches]))
    exact .inl hpend

/-- `T.rxArmed`: the releases arm the endpoint, a packet that lands and the delivery of one disarm it. -/
theorem rxArmed_writers (h : Effect i s t) :
    t.T.rxArmed = s.T.rxArmed ∨
      (((∃ ctx, i = .read ctx ∧ s.S.rxPend = true ∧ s.S.rxCur + 1 = s.S.rxLen) ∨ (∃ ctx, i = .discard ctx) ∨
          (i = .onPacketReceived ∧ s.T.rxLatch = some []) ∨ i = .busReset) ∧ t.T.rxArmed = true) ∨
      ((∃ d, i = .hostBulkOut d) ∨ (i = .onPacketReceived ∧ ∃ d, s.T.rxLatch = some d ∧ d ≠ [])) ∧ t.T.rxArmed = false := by
  cases i
  case read ctx =>
    obtain ⟨-, _, ⟨-, rfl⟩, ⟨hp, rfl⟩ | ⟨-, rfl⟩⟩ := h
    · rcases readTake_cases (entered ctx s) with ⟨hlast, ht⟩ | ⟨-, ht⟩ <;> rw [ht]
      · exact .inr (.inl ⟨.inl ⟨ctx, rfl, hp, by simpa using hlast⟩, rfl⟩)
      · exact .inl (by simp)
    · exact .inl (by simp)
  case discard ctx =>
    obtain ⟨-, _, -, rfl⟩ := h
    exact .inr (.inl ⟨.inr (.inl ⟨ctx, rfl⟩), rfl⟩)
  case onPacketReceived =>
    obtain ⟨-, -, d, hl, -, ⟨rfl, rfl⟩ | ⟨hd, rfl⟩⟩ := h
    · exact .inr (.inl ⟨.inr (.inr (.inl ⟨rfl, hl⟩)), rfl⟩)
    · exact .inr (.inr ⟨.inr ⟨rfl, d, hl, List.ne_nil_of_length_pos hd⟩, rfl⟩)
  case hostBulkOut d =>
    obtain ⟨-, -, -, rfl⟩ := h
    exact .inr (.inr ⟨.inl ⟨d, rfl⟩, rfl⟩)
  case busReset =>
    cases h
    exact .inr (.inl ⟨.inr (.inr (.inr rfl)), rfl⟩)
  case initializeBlock =>
    obtain ⟨_, ⟨-, rfl⟩, rfl⟩ := h
    exact .inl (by simp [initializedState])
  all_goals
    obtain ⟨-, -, -, -, harmed, -⟩ := rxPart_eq_iff.1 ((effect_frame h).rx (by simp [touches]))
    exact .inl harmed

end Receive

end Sys2Proof.Machine
end

section
/-! SUPPORT. Statements about every operation and every step, each from the writers of the fields it follows. -/

namespace Sys2Proof.Machine

/-- An operation keeps the parts it does not touch, or marks a fault on the state before it. -/
theorem exec_frame {i : Instr} {s t : State} (h : exec i s = .next t) :
    (∃ r, Raises i s r ∧ t = raiseFault r s) ∨ (Effect i s t ∧ KeepsBut (touches i) s t) :=
  (exec_next h).imp_right fun he => ⟨he, effect_frame he⟩

/-- A step that runs no operation resumes a READ, resumes a WRITE_BLOCKING, or refuses a word. -/
theorem step_none {s t : State} (h : step s = .next t) (hn : nextOp s = none) :
    s.S.fault = none ∧
      ((Resumes s ∧ s.C.main = .heldRead ∧ s.S.rxPend = true ∧ t = readTake (s.popTurn.setMain .ready)) ∨
        (Resumes s ∧ ∃ b, s.C.main = .heldWrite b ∧ s.S.txFill < s.cfg.txBufSize ∧
          t = writeStaged b (s.popTurn.setMain .ready)) ∨
        (¬ Resumes s ∧ t = refuseWord s.popTurn)) := by
  obtain ⟨hf, ⟨i, hi, -⟩ | ⟨-, hres, hr⟩ | ⟨-, hres, ht⟩⟩ := step_nextOp h
  · rw [hn] at hi
    cases hi
  · obtain ⟨-, ⟨hm, hp, ht⟩ | ⟨b, hm, hroom, ht⟩⟩ := resumeMain_next hr
    · exact ⟨hf, .inl ⟨hres, hm, hp, ht⟩⟩
    · exact ⟨hf, .inr (.inl ⟨hres, b, hm, hroom, ht⟩)⟩
  · exact ⟨hf, .inr (.inr ⟨hres, ht⟩)⟩

/-- The state a resumed request runs in has the parts of the state before the step. -/
theorem keepsBut_resumed (ps : List Part) (s : State) : KeepsBut ps s (s.popTurn.setMain .ready) :=
  keepsBut_of_eq ps rfl rfl rfl rfl

/-- A resumed READ touches the receive path and a resumed WRITE_BLOCKING the transmit path. -/
theorem step_none_frame {s t : State} (h : step s = .next t) (hn : nextOp s = none) :
    KeepsBut [.rx, .log] s t ∨ KeepsBut [.tx, .log] s t ∨ t = refuseWord s.popTurn := by
  obtain ⟨-, ⟨-, -, -, rfl⟩ | ⟨-, b, -, -, rfl⟩ | ⟨-, rfl⟩⟩ := step_none h hn
  · exact .inl ((keepsBut_resumed _ s).trans (keepsBut_readTake _))
  · exact .inr (.inl ((keepsBut_resumed _ s).trans (keepsBut_writeStaged b _)))
  · exact .inr (.inr rfl)

/-- A step that runs no operation leaves the control fields alone. -/
theorem step_none_control {s t : State} (h : step s = .next t) (hn : nextOp s = none) : controlPart t = controlPart s := by
  rcases step_none_frame h hn with hk | hk | rfl
  · exact hk.control (by simp)
  · exact hk.control (by simp)
  · rfl

/-! ### Break and encapsulated command (R36, R37) -/

/-- Settles O47: `brk_writers` and `encap_writers`; a fault and a step without an operation write neither. -/
theorem breakAndEncapsulatedCommandHaveTheirOwnWriters : Obligations.BreakAndEncapsulatedCommandHaveTheirOwnWriters := by
  unfold Obligations.BreakAndEncapsulatedCommandHaveTheirOwnWriters
  refine ⟨fun s t h hn => ?_, fun i s t h => ?_⟩
  · obtain ⟨hencap, -, -, -, hbrk, -⟩ := controlPart_eq_iff.1 (step_none_control h hn)
    exact ⟨hbrk, hencap⟩
  · rcases exec_next h with ⟨_, -, rfl⟩ | he
    · exact ⟨fun hne => absurd rfl hne, fun hne => absurd rfl hne⟩
    · exact ⟨(brk_writers he).resolve_left, (encap_writers he).resolve_left⟩

/-! ### Faults (R220, R232) -/

/-- Settles O53: a fault is `raiseFault` on the state before, for a reason `Raises` names; an effect and a step without an
operation leave the mark alone. -/
theorem faultDiscardsEveryOtherWrite : Obligations.FaultDiscardsEveryOtherWrite := by
  unfold Obligations.FaultDiscardsEveryOtherWrite
  refine ⟨fun s t h hn => ?_, fun i s t h hne => ?_⟩
  · have hf := (step_none h hn).1
    rcases step_none_frame h hn with hk | hk | rfl
    · exact hk.fault.trans hf
    · exact hk.fault.trans hf
    · exact hf
  · rcases exec_frame h with ⟨r, hr, rfl⟩ | ⟨-, hk⟩
    · refine ⟨r, rfl, ?_⟩
      cases r with
      | notInitialized => exact ⟨fun _ => hr, nofun, nofun, nofun⟩
      | blockingDeadlock =>
        refine ⟨nofun, fun _ => ?_, nofun, nofun⟩
        rcases hr with ⟨ctx, hi, -⟩ | ⟨ctx, b, hi, -⟩
        · exact .inl ⟨ctx, hi⟩
        · exact .inr ⟨ctx, b, hi⟩
      | rxOversize => exact ⟨nofun, nofun, fun _ => hr.1, nofun⟩
      | dataStageLength => exact ⟨nofun, nofun, nofun, fun _ => hr.1⟩
    · exact absurd hk.fault hne

/-! ### The host and the bus (R211) -/

/-- The operations of ENV (R92). -/
theorem env_cases {i : Instr} (h : i.agent = .env) :
    i = .busReset ∨ (∃ p, i = .hostSetup p) ∨ (∃ d, i = .hostDataOut d) ∨ (∃ d, i = .hostBulkOut d) ∨ i = .hostAckBulkIn ∨
      i = .hostAckIntIn := by
  cases i
  case busReset | hostSetup | hostDataOut | hostBulkOut | hostAckBulkIn | hostAckIntIn => simp
  case read ctx | hasData ctx | discard ctx | availableSpace ctx | writeBlocking ctx _ | writeFast ctx _ | writeBlock ctx _
      | flush ctx | isEmpty ctx | sendSerialState ctx _ | getLineCodingApp ctx | getCarrier ctx | getBreak ctx | isConnected ctx
      | initializeBlock ctx =>
    cases ctx <;> cases h
  all_goals cases h

/-- An ENV step changes the transport and the host record alone (R211). -/
theorem exec_env_frame {i : Instr} {s t : State} (hi : i.agent = .env) (h : exec i s = .next t) :
    t = { s with T := t.T, H := t.H } := by
  rcases env_cases hi with rfl | ⟨p, rfl⟩ | ⟨d, rfl⟩ | ⟨d, rfl⟩ | rfl | rfl
  · obtain ⟨-, rfl⟩ := asEnvAlways_next h; rfl
  · obtain ⟨-, rfl⟩ := asEnvAlways_next h; rfl
  · obtain ⟨-, -, rfl⟩ := asEnv_next h; rfl
  · obtain ⟨-, -, rfl⟩ := asEnv_next h; rfl
  · obtain ⟨-, -, rfl⟩ := asEnv_next h; rfl
  · obtain ⟨-, -, rfl⟩ := asEnv_next h; rfl

/-- An ENV operation's guard reads the transport and RX_BUF_SIZE alone (R211). -/
theorem admitted_env {i : Instr} {s u : State} (hi : i.agent = .env) (hT : u.T = s.T) (hc : u.cfg.rxBufSize = s.cfg.rxBufSize) :
    admitted i u = admitted i s := by
  rcases env_cases hi with rfl | ⟨p, rfl⟩ | ⟨d, rfl⟩ | ⟨d, rfl⟩ | rfl | rfl <;> simp only [admitted, hT, hc]

theorem isRequest_of_env {i : Instr} (hi : i.agent = .env) : i.isRequest = false := by
  rcases env_cases hi with rfl | ⟨p, rfl⟩ | ⟨d, rfl⟩ | ⟨d, rfl⟩ | rfl | rfl <;> rfl

theorem host_notMem_touches {i : Instr} (h : i.agent ≠ .env) : .host ∉ touches i := by
  cases i
  case hostAckBulkIn | hostAckIntIn => exact absurd rfl h
  all_goals simp [touches]

theorem exec_host {i : Instr} {s t : State} (hi : i.agent ≠ .env) (h : exec i s = .next t) : t.H = s.H := by
  rcases exec_frame h with ⟨_, -, rfl⟩ | ⟨-, hk⟩
  · rfl
  · exact hk.host (host_notMem_touches hi)

/-- Settles O50: ENV's operations by `exec_env_frame` and `admitted_env`, all others by `exec_host`. -/
theorem envStepsChangeOnlyTransportAndHost : Obligations.EnvStepsChangeOnlyTransportAndHost := by
  unfold Obligations.EnvStepsChangeOnlyTransportAndHost
  refine ⟨fun i s t => exec_env_frame, fun i s u hi ⟨t, h⟩ hf hT hc => ?_, fun i s t => exec_host, fun s t h hi => ?_⟩
  · have hr := isRequest_of_env hi
    exact (exec_admission hr hf).1 ((admitted_env hi hT hc).trans (admitted_of_exec_next hr h))
  · cases hop : nextOp s with
    | some i =>
      obtain ⟨-, ⟨j, hj, he⟩ | ⟨hn, -⟩ | ⟨hn, -⟩⟩ := step_nextOp h
      · exact exec_host (s := s.popTurn) (hi j hj) he
      · cases hn.symm.trans hop
      · cases hn.symm.trans hop
    | none =>
      rcases step_none_frame h hop with hk | hk | rfl
      · exact hk.host (by simp)
      · exact hk.host (by simp)
      · rfl

end Sys2Proof.Machine
end

section
/-! SUPPORT. The control state, the flags, the round trip of the line coding and the OUT endpoint, over operations and steps
(spec/10_state.md section 6, spec/41_control_requests.md section 3, spec/42_rx_path.md section 3). -/

namespace Sys2Proof.Machine

/-! ### The control state (R128) -/

section SetupEvent

variable {s t : State} {p : Setup} (h : EventReady s) (hl : s.T.setupLatch = some p) (ht : exec .onSetupReceived s = .next t)
include h hl ht

/-- A stalled packet leaves Idle. -/
theorem setupEvent_stall (hd : decodeSetup s.cfg p = .ctrlOther p) : t.S.cs = .idle ∧ t.T.log = s.T.log ++ [.stall] := by
  have hrun := (exec_onSetupReceived h hl).symm.trans ht
  rw [hd] at hrun
  cases hrun
  exact ⟨rfl, rfl⟩

/-- Where a packet that passes the target check leads, by its code. -/
theorem setupEvent_cdc (htc : TargetsCdc s.cfg p) :
    (p.bRequest = 0x00 →
      t.S.cs = .awaitingEncapsulatedCommand ∧ t.T.log = s.T.log ++ [.dataStage (min p.wLength.toNat 8)]) ∧
    (p.bRequest = 0x01 →
      t.S.cs = .idle ∧ t.T.log = s.T.log ++ [.ctrlIn (s.S.mem.encap.take (min p.wLength.toNat 8))]) ∧
    (p.bRequest = 0x20 → t.S.cs = .awaitingLineCoding ∧ t.T.log = s.T.log ++ [.dataStage 7]) ∧
    (p.bRequest = 0x21 → t.S.cs = .idle ∧ t.T.log = s.T.log ++ [.ctrlIn (s.S.mem.lc.take 7)]) ∧
    (p.bRequest = 0x22 ∨ p.bRequest = 0x23 → t.S.cs = .idle ∧ t.T.log = s.T.log ++ [.zlStatus]) := by
  have hrun := (exec_onSetupReceived h hl).symm.trans ht
  obtain ⟨h00, h01, h20, h21, h22, h23⟩ := decodeSetup_of_targetsCdc htc
  refine ⟨fun hb => ?_, fun hb => ?_, fun hb => ?_, fun hb => ?_, fun hb => ?_⟩
  · rw [h00 hb] at hrun; cases hrun; exact ⟨rfl, rfl⟩
  · rw [h01 hb] at hrun; cases hrun; exact ⟨rfl, rfl⟩
  · rw [h20 hb] at hrun; cases hrun; exact ⟨rfl, rfl⟩
  · rw [h21 hb] at hrun; cases hrun; exact ⟨rfl, rfl⟩
  · rcases hb with hb | hb
    · rw [h22 hb] at hrun; cases hrun; exact ⟨rfl, rfl⟩
    · rw [h23 hb] at hrun; cases hrun; exact ⟨rfl, rfl⟩

end SetupEvent

/-- INITIALIZE leads to Idle and emits nothing. -/
theorem exec_initializeBlock_cs {ctx : Ctx} {s t : State} (h : exec (.initializeBlock ctx) s = .next t) :
    t.S.cs = .idle ∧ t.T.log = s.T.log := by
  obtain ⟨-, -, ht | ⟨_, ht, -⟩⟩ := asApp_enters h <;> cases ht
  exact ⟨rfl, by simp [initializedState]⟩

/-- Settles O36: the events by the equation of the rule they run, INITIALIZE by its own, and any other operation by `cs_writers`. -/
theorem controlStateFollowsItsTransitionTable : Obligations.ControlStateFollowsItsTransitionTable := by
  unfold Obligations.ControlStateFollowsItsTransitionTable
  refine ⟨fun s t p h hl ht => ⟨fun hn => ?_, fun htc => ?_⟩, fun s t d h hl ht => ?_, fun ctx s t => exec_initializeBlock_cs,
    fun i s t h hr hs hd hi => ?_⟩
  · exact setupEvent_stall h hl ht (decodeSetup_of_not_targetsCdc hn)
  · obtain ⟨h00, h01, h20, h21, h223⟩ := setupEvent_cdc h hl ht htc
    exact ⟨h00, h01, h20, h21, h223, fun hb => setupEvent_stall h hl ht (decodeSetup_ctrlOther htc hb)⟩
  · rw [exec_onDataStageComplete h hl] at ht
    refine ⟨fun hcs hmps hd => ?_, fun hcs hmps hd => ?_, fun hcs hd => ?_, fun hcs => ?_, fun hcs => ?_⟩
    · rw [completeDataStage_encap (by exact hcs) hd, finishEncap_full (by exact hmps)] at ht
      cases ht
      exact ⟨rfl, rfl⟩
    · rw [completeDataStage_encap (by exact hcs) hd, finishEncap_short (by exact hmps)] at ht
      cases ht
      exact ⟨rfl, rfl⟩
    · rw [completeDataStage_line (by exact hcs) hd] at ht
      cases ht
      exact ⟨rfl, rfl⟩
    · rw [completeDataStage_ack (by exact hcs)] at ht
      cases ht
      exact ⟨rfl, rfl⟩
    · rw [completeDataStage_idle (by exact hcs)] at ht
      cases ht
      exact ⟨hcs, rfl⟩
  · rcases exec_next h with ⟨_, -, rfl⟩ | he
    · rfl
    · exact cs_writers he hr hs hd hi

/-! ### The flags (R47) -/

section Flags

variable {i : Instr} {s t : State}

/-- The flags over an operation that is no request and does not run one. -/
theorem exec_flags (h : exec i s = .next t) (hr : i.isRequest = false) (hs : i ≠ .onSetupReceived) :
    (s.S.rxPend = false → t.S.rxPend = true → i = .onPacketReceived ∧ ∃ d, s.T.rxLatch = some d ∧ d ≠ []) ∧
    (s.S.rxPend = true → t.S.rxPend = false →
      (∃ ctx, i = .read ctx ∧ s.S.rxCur + 1 = s.S.rxLen) ∨ (∃ ctx, i = .discard ctx) ∨ ∃ ctx, i = .initializeBlock ctx) ∧
    (s.S.conn = false → t.S.conn = true → i = .onDataStageComplete ∧ s.S.cs = .awaitingLineCoding) ∧
    (s.S.conn = true → t.S.conn = false → ∃ ctx, i = .initializeBlock ctx) ∧
    (s.S.carrierDte = false → t.S.carrierDte = false) ∧
    (s.S.carrierDte = true → t.S.carrierDte = false → ∃ ctx, i = .initializeBlock ctx) ∧
    (s.S.carrierAct = false → t.S.carrierAct = false) ∧
    (s.S.carrierAct = true → t.S.carrierAct = false → ∃ ctx, i = .initializeBlock ctx) := by
  rcases exec_next h with ⟨_, -, rfl⟩ | he
  · simp only [raiseFault_S]
    grind
  · have hpend := rxPend_writers he
    have hconn := conn_writers he
    have hcarrier := carrier_writers he hr hs
    grind

/-- The flags over a request alone: only SetControlLineState writes them, the two carrier flags. -/
theorem exec_request_flags (h : exec i s = .next t) (hr : i.isRequest = true) :
    t.S.rxPend = s.S.rxPend ∧ t.S.conn = s.S.conn ∧
    (t.S.carrierDte ≠ s.S.carrierDte → ∃ r, i = .setControlLineState r ∧ t.S.carrierDte = r.wValue.getLsbD 0) ∧
    (t.S.carrierAct ≠ s.S.carrierAct → ∃ r, i = .setControlLineState r ∧ t.S.carrierAct = r.wValue.getLsbD 1) := by
  rcases exec_frame h with ⟨_, -, rfl⟩ | ⟨he, hk⟩
  · exact ⟨rfl, rfl, fun hne => absurd rfl hne, fun hne => absurd rfl hne⟩
  · have hrx : .rx ∉ touches i := by
      cases i
      case sendEncapsulatedCommand | getEncapsulatedCommand | setLineCoding | getLineCoding | setControlLineState | sendBreak
          | ctrlOther => simp [touches]
      all_goals cases hr
    obtain ⟨-, -, -, hpend, -⟩ := rxPart_eq_iff.1 (hk.rx hrx)
    obtain ⟨hconn, -, -, ⟨hdte, hact⟩ | ⟨r, hi, hdte, hact⟩⟩ := request_writers hr he
    · exact ⟨hpend, hconn, fun hne => absurd hdte hne, fun hne => absurd hact hne⟩
    · exact ⟨hpend, hconn, fun _ => ⟨r, hi, hdte⟩, fun _ => ⟨r, hi, hact⟩⟩

/-- The flags over ON_SETUP_RECEIVED: those of the request it runs. -/
theorem exec_setupEvent_flags {p : Setup} (h : exec .onSetupReceived s = .next t) (hl : s.T.setupLatch = some p) :
    t.S.rxPend = s.S.rxPend ∧ t.S.conn = s.S.conn ∧
    (t.S.carrierDte ≠ s.S.carrierDte → p.bRequest = 0x22 ∧ t.S.carrierDte = p.wValue.getLsbD 0) ∧
    (t.S.carrierAct ≠ s.S.carrierAct → p.bRequest = 0x22 ∧ t.S.carrierAct = p.wValue.getLsbD 1) := by
  rcases exec_frame h with ⟨_, -, rfl⟩ | ⟨he, hk⟩
  · exact ⟨rfl, rfl, fun hne => absurd rfl hne, fun hne => absurd rfl hne⟩
  · obtain ⟨-, -, -, hpend, -⟩ := rxPart_eq_iff.1 (hk.rx (by simp [touches]))
    obtain ⟨hconn, -, -, ⟨hdte, hact⟩ | ⟨hb, hdte, hact⟩⟩ := setupEvent_writers hl he
    · exact ⟨hpend, hconn, fun hne => absurd hdte hne, fun hne => absurd hact hne⟩
    · exact ⟨hpend, hconn, fun _ => ⟨hb, hdte⟩, fun _ => ⟨hb, hact⟩⟩

/-- What a step without an operation does to the pending flag: a resumed READ of a frame's last byte clears it. -/
theorem step_none_rxPend (h : step s = .next t) (hn : nextOp s = none) :
    (t.S.rxPend = s.S.rxPend ∧ t.T.rxArmed = s.T.rxArmed) ∨
      ((Resumes s ∧ s.C.main = .heldRead ∧ s.S.rxPend = true ∧ s.S.rxCur + 1 = s.S.rxLen) ∧
        t.S.rxPend = false ∧ t.T.rxArmed = true) := by
  obtain ⟨-, ⟨hres, hm, hp, rfl⟩ | ⟨-, b, -, -, rfl⟩ | ⟨-, rfl⟩⟩ := step_none h hn
  · rcases readTake_cases (s.popTurn.setMain .ready) with ⟨hlast, ht⟩ | ⟨-, ht⟩ <;> rw [ht]
    · exact .inr ⟨⟨hres, hm, hp, hlast⟩, rfl, rfl⟩
    · exact .inl ⟨rfl, rfl⟩
  · have hrx := (keepsBut_writeStaged b (s.popTurn.setMain .ready)).rx (by simp)
    obtain ⟨-, -, -, hpend, harmed, -⟩ := rxPart_eq_iff.1 hrx
    exact .inl ⟨hpend, harmed⟩
  · exact .inl ⟨rfl, rfl⟩

/-- A resumed READ answers the byte at the cursor. -/
theorem step_resumed_read_ret (h : step s = .next t) (hn : nextOp s = none) (hres : Resumes s) (hm : s.C.main = .heldRead) :
    s.S.rxPend = true ∧ t.ret = .byte (s.S.mem.byte .rxData s.S.rxCur) := by
  obtain ⟨-, ⟨-, -, hp, rfl⟩ | ⟨-, b, hw, -, -⟩ | ⟨hno, -⟩⟩ := step_none h hn
  · refine ⟨hp, ?_⟩
    rcases readTake_cases (s.popTurn.setMain .ready) with ⟨-, ht⟩ | ⟨-, ht⟩ <;> rw [ht] <;> rfl
  · rw [hm] at hw
    cases hw
  · exact absurd hres hno

end Flags

theorem readTake_ret (s : State) : (readTake s).ret = .byte (s.S.mem.byte .rxData s.S.rxCur) := rfl

/-- Settles O45: the writers of each flag over operations, requests, ON_SETUP_RECEIVED and steps without an operation; the readers
by their equations. -/
theorem flagsAreWrittenOnlyAsTheTableSays : Obligations.FlagsAreWrittenOnlyAsTheTableSays := by
  unfold Obligations.FlagsAreWrittenOnlyAsTheTableSays
  refine ⟨fun i s t => exec_flags, fun i s t => exec_request_flags, fun s t p => exec_setupEvent_flags, fun s t h hn => ?_,
    fun ctx s t h => ⟨fun ht => ?_, fun ht hp => ?_, fun ht => ?_, fun ht => ?_⟩⟩
  · obtain ⟨-, -, hdte, hact, -, hconn, -⟩ := controlPart_eq_iff.1 (step_none_control h hn)
    refine ⟨fun h0 => ?_, fun h1 h0 => ?_, step_resumed_read_ret h hn, hconn, hdte, hact⟩
    · rcases step_none_rxPend h hn with ⟨hpend, -⟩ | ⟨-, hpend, -⟩
      · exact hpend.trans h0
      · exact hpend
    · rcases step_none_rxPend h hn with ⟨hpend, -⟩ | ⟨⟨hres, hm, -, hlast⟩, -⟩
      · cases h0.symm.trans (hpend.trans h1)
      · exact ⟨hres, hm, hlast⟩
  · obtain ⟨hhas, -⟩ := pureRequestsReturnTheirValueAndWriteNothing ctx s h
    rw [hhas] at ht
    cases ht
    rfl
  · rw [exec_read_of_pending h hp] at ht
    cases ht
    rw [readTake_ret, entered_S]
  · obtain ⟨-, -, -, -, -, -, hconn⟩ := pureRequestsReturnTheirValueAndWriteNothing ctx s h
    rw [hconn] at ht
    cases ht
    rfl
  · obtain ⟨-, -, -, -, hcarrier, -⟩ := pureRequestsReturnTheirValueAndWriteNothing ctx s h
    rw [hcarrier] at ht
    cases ht
    rfl

/-! ### The round trip of the line coding (R124, R116, R172) -/

/-- A step that neither completes a SetLineCoding data stage nor is INITIALIZE keeps the connection flag. -/
theorem step_conn {s t : State} (hk : KeepsLineCoding s) (h : step s = .next t) : t.S.conn = s.S.conn := by
  obtain ⟨hstage, hinit⟩ := hk
  cases hop : nextOp s with
  | none =>
    obtain ⟨-, -, -, -, -, hconn, -⟩ := controlPart_eq_iff.1 (step_none_control h hop)
    exact hconn
  | some i =>
    obtain ⟨-, ⟨j, hj, he⟩ | ⟨hn, -⟩ | ⟨hn, -⟩⟩ := step_nextOp h
    · rcases exec_next he with ⟨_, -, rfl⟩ | he
      · rfl
      · rcases conn_writers he with hconn | ⟨rfl, hcs, -⟩ | ⟨⟨ctx, rfl⟩, -⟩
        · exact hconn
        · exact absurd hcs (hstage hj)
        · exact absurd hj (hinit ctx)
    · cases hn.symm.trans hop
    · cases hn.symm.trans hop

/-- Nor does it write the line coding (`step_lc`). -/
theorem step_lc_of_keeps {s t : State} (hk : KeepsLineCoding s) (h : step s = .next t) : t.S.mem.lc = s.S.mem.lc := by
  obtain ⟨hstage, hinit⟩ := hk
  rcases step_lc h with hlc | ⟨i, hi, ⟨rfl, hcs, -⟩ | ⟨ctx, rfl, -⟩⟩
  · exact hlc
  · exact absurd hcs (hstage hi)
  · exact absurd hi (hinit ctx)

/-- A read of a 7-byte line coding is all of it. -/
theorem read_lc_of_eq {m : Memory} {d : List Byte} (h : m.lc = d) (hd : d.length = 7) : m.read .lc 0 7 = d := by
  have htake : m.read .lc 0 7 = m.lc.take 7 := rfl
  rw [htake, h, List.take_of_length_le hd.le]

/-- Settles O48: the completed stage stores the bytes and sets the flag, every further step keeps both (`RunsWhile.keeps`), and the
three readers give what is stored. -/
theorem getLineCodingReturnsTheLastCompletedSetLineCoding : Obligations.GetLineCodingReturnsTheLastCompletedSetLineCoding := by
  unfold Obligations.GetLineCodingReturnsTheLastCompletedSetLineCoding
  intro s t u d n h hl hcs hd ht hrun
  rw [exec_onDataStageComplete h hl, completeDataStage_line (by exact hcs) hd] at ht
  cases ht
  have hkept : u.S.mem.lc = d ∧ u.S.conn = true :=
    RunsWhile.keeps (p := fun v => v.S.mem.lc = d ∧ v.S.conn = true)
      (fun v w hk ⟨hlc, hconn⟩ hvw => ⟨(step_lc_of_keeps hk hvw).trans hlc, (step_conn hk hvw).trans hconn⟩) hrun ⟨rfl, rfl⟩
  obtain ⟨hlc, hconn⟩ := hkept
  have hread := read_lc_of_eq hlc hd
  refine ⟨hlc, hconn, fun r => ?_, fun p hu hp htc hb => ?_, fun ctx hu => ?_⟩
  · rw [exec_getLineCoding, hread]
    rfl
  · obtain ⟨-, -, -, hget, -⟩ := decodeSetup_of_targetsCdc htc
    have hmem : (setupTaken u).S.mem = u.S.mem := rfl
    rw [exec_onSetupReceived hu hp, hget hb, exec_getLineCoding, hmem, hread]
    rfl
  · rw [exec_getLineCodingApp hu, hread]
    rfl

/-! ### The OUT endpoint (R140-R143, R73) -/

/-- HELD WHILE PENDING reads the receive path alone. -/
theorem heldWhilePending_of_rx {s t : State} (h : rxPart t = rxPart s) (hs : HeldWhilePending s) : HeldWhilePending t := by
  obtain ⟨-, -, -, hpend, harmed, hlatch⟩ := rxPart_eq_iff.1 h
  simpa only [HeldWhilePending, hpend, harmed, hlatch] using hs

/-- Taking a byte leaves the frame pending under a held endpoint, or releases both. -/
theorem heldWhilePending_readTake {s : State} (hs : HeldWhilePending s) : HeldWhilePending (readTake s) := by
  rcases readTake_cases s with ⟨-, ht⟩ | ⟨-, ht⟩ <;> rw [ht]
  · exact nofun
  · exact hs

theorem effect_heldWhilePending {i : Instr} {s t : State} (hi : i ≠ .busReset) (h : Effect i s t) (hs : HeldWhilePending s) :
    HeldWhilePending t := by
  cases i
  case busReset => exact absurd rfl hi
  case read ctx =>
    have hu : HeldWhilePending (entered ctx s) := heldWhilePending_of_rx ((keepsBut_entered [] ctx s).rx (by simp)) hs
    obtain ⟨-, _, ⟨-, rfl⟩, ⟨-, rfl⟩ | ⟨-, rfl⟩⟩ := h
    · exact heldWhilePending_readTake hu
    · exact hu
  case discard =>
    obtain ⟨-, _, -, rfl⟩ := h
    exact nofun
  case initializeBlock =>
    obtain ⟨_, -, rfl⟩ := h
    exact nofun
  case onPacketReceived =>
    obtain ⟨-, -, d, hl, -, ⟨-, rfl⟩ | ⟨-, rfl⟩⟩ := h
    · intro hp
      rw [(hs hp).2] at hl
      cases hl
    · exact fun _ => ⟨rfl, rfl⟩
  case hostBulkOut d =>
    obtain ⟨harm, -, -, rfl⟩ := h
    intro hp
    rw [(hs hp).1] at harm
    cases harm
  all_goals exact heldWhilePending_of_rx ((effect_frame h).rx (by simp [touches])) hs

/-- Settles O17: `rxArmed_writers` over operations, `step_none_rxPend` over the other steps, and the receive order as an invariant of
every step but BUS_RESET (`step_keeps`), under which HOST_BULK_OUT's guard and a waiting packet exclude a pending frame. -/
theorem outEndpointIsArmedOnlyByARelease : Obligations.OutEndpointIsArmedOnlyByARelease := by
  unfold Obligations.OutEndpointIsArmedOnlyByARelease
  refine ⟨fun i s t h => ?_, fun s t h hn => ?_, fun s t hs h hop => ?_, fun s t hs => ⟨fun d h => ?_, fun h => ?_⟩⟩
  · rcases exec_next h with ⟨_, -, rfl⟩ | he
    · simp only [raiseFault_T]
      grind
    · have harmed := rxArmed_writers he
      grind
  · have hstep := step_none_rxPend h hn
    grind
  · exact step_keeps (ok := (· ≠ .busReset)) (fun hp => heldWhilePending_of_rx hp.rx) effect_heldWhilePending
      (fun _ => heldWhilePending_readTake)
      (fun {b s} _ => heldWhilePending_of_rx ((keepsBut_writeStaged b s).rx (by simp))) h
      (fun i hi hb => hop (hb ▸ hi)) hs
  · obtain ⟨-, hg, -⟩ := asEnv_next h
    simp only [bulkOutGuard, Bool.and_eq_true] at hg
    refine Bool.eq_false_iff.2 fun hp => ?_
    rw [(hs hp).1] at hg
    exact Bool.false_ne_true hg.1.1
  · obtain ⟨-, -, d, hl, -⟩ := onEvent_cases h
    refine Bool.eq_false_iff.2 fun hp => ?_
    rw [(hs hp).2] at hl
    cases hl

/-! ### History (R45, R191, R224) -/

/-- What the host has received only grows. -/
theorem effect_host_grows {i : Instr} {s t : State} (h : Effect i s t) :
    s.H.bulkIn <+: t.H.bulkIn ∧ s.H.notif <+: t.H.notif := by
  cases i
  case hostAckBulkIn | hostAckIntIn =>
    obtain ⟨-, rfl⟩ := h
    simp [ackBulkIn, ackIntIn]
  all_goals
    rw [(effect_frame h).host (by simp [touches])]
    exact ⟨List.prefix_rfl, List.prefix_rfl⟩

/-- Nothing of what the run has recorded is undone from `s` to `t`. -/
structure KeepsHistory (s t : State) : Prop where
  cfg : t.cfg = s.cfg
  log : s.T.log <+: t.T.log
  bulk : s.H.bulkIn <+: t.H.bulkIn
  notif : s.H.notif <+: t.H.notif
  init : s.S.init = true → t.S.init = true
  refused : s.S.refused = true → t.S.refused = true

theorem keepsHistory_of_keepsBut {ps : List Part} {s t : State} (h : KeepsBut ps s t) (hp : .host ∉ ps) : KeepsHistory s t where
  cfg := h.cfg
  log := h.grows
  bulk := by rw [h.host hp]
  notif := by rw [h.host hp]
  init := h.init
  refused := h.refused.trans

theorem exec_keepsHistory {i : Instr} {s t : State} (h : exec i s = .next t) : KeepsHistory s t := by
  rcases exec_frame h with ⟨_, -, rfl⟩ | ⟨he, hk⟩
  · exact ⟨rfl, List.prefix_rfl, List.prefix_rfl, List.prefix_rfl, id, id⟩
  · obtain ⟨hbulk, hnotif⟩ := effect_host_grows he
    exact ⟨hk.cfg, hk.grows, hbulk, hnotif, hk.init, hk.refused.trans⟩

theorem step_keepsHistory {s t : State} (h : step s = .next t) : KeepsHistory s t := by
  cases hop : nextOp s with
  | some i =>
    obtain ⟨-, ⟨j, -, he⟩ | ⟨hn, -⟩ | ⟨hn, -⟩⟩ := step_nextOp h
    · obtain ⟨hcfg, hlog, hbulk, hnotif, hinit, hrefused⟩ := exec_keepsHistory he
      exact ⟨hcfg, hlog, hbulk, hnotif, hinit, hrefused⟩
    · cases hn.symm.trans hop
    · cases hn.symm.trans hop
  | none =>
    rcases step_none_frame h hop with hk | hk | rfl
    · exact keepsHistory_of_keepsBut hk (by simp)
    · exact keepsHistory_of_keepsBut hk (by simp)
    · exact ⟨rfl, List.prefix_rfl, List.prefix_rfl, List.prefix_rfl, id, fun _ => rfl⟩

/-- Settles O60. -/
theorem stepNeverUndoesHistory : Obligations.StepNeverUndoesHistory := by
  unfold Obligations.StepNeverUndoesHistory
  intro s t h
  obtain ⟨hcfg, ⟨l, hl⟩, ⟨b, hb⟩, ⟨n, hn⟩, hinit, hrefused⟩ := step_keepsHistory h
  exact ⟨hcfg, ⟨l, hl.symm⟩, ⟨b, hb.symm⟩, ⟨n, hn.symm⟩, hinit, hrefused⟩

end Sys2Proof.Machine
end

section
/-! SUPPORT. The state invariant (spec/10_state.md section 6, spec/20_memory.md section 1) and the in-flight count. `StateInv` is cut
into what it says of each part of the state; each piece is kept by the operations that touch its part and, trivially, by all
others. -/

namespace Sys2Proof.Machine

/-! ### The pieces of the invariant -/

/-- R60, (I2): the frame buffer's capacity, and a pending frame's length and cursor. -/
def RxInv (s : State) : Prop :=
  s.S.mem.rxData.length = s.cfg.rxBufSize ∧
    (s.S.rxPend = true → 1 ≤ s.S.rxLen ∧ s.S.rxLen ≤ s.cfg.rxBufSize ∧ s.S.rxCur < s.S.rxLen)

/-- R60, (I1), (I4): the staging buffer's capacity and fill, and the bulk IN queue's depth. -/
def TxInv (s : State) : Prop :=
  s.S.mem.txData.length = s.cfg.txBufSize ∧ s.S.txFill ≤ s.cfg.txBufSize ∧ s.T.bulkInQ.length ≤ s.cfg.bulkInDepth

/-- R60: the two stored images. -/
def ControlInv (s : State) : Prop := s.S.mem.encap.length = 8 ∧ s.S.mem.lc.length = 7

/-- (I4): the interrupt IN queue's depth. -/
def NotifyInv (s : State) : Prop := s.T.intInQ.length ≤ s.cfg.intInDepth

theorem stateInv_iff (s : State) :
    StateInv s ↔ s.cfg.valid = true ∧ RxInv s ∧ TxInv s ∧ ControlInv s ∧ NotifyInv s := by
  have hwf := Memory.wf_iff s.cfg s.S.mem
  constructor
  · rintro ⟨hv, hm, hfill, hframe, hbulk, hint⟩
    have hcap := hwf.1 hm
    exact ⟨hv, ⟨hcap .rxData, hframe⟩, ⟨hcap .txData, hfill, hbulk⟩, ⟨hcap .encap, hcap .lc⟩, hint⟩
  · rintro ⟨hv, ⟨hrx, hframe⟩, ⟨htx, hfill, hbulk⟩, ⟨hencap, hlc⟩, hint⟩
    refine ⟨hv, hwf.2 fun a => ?_, hfill, hframe, hbulk, hint⟩
    cases a
    · exact hrx
    · exact htx
    · exact hencap
    · exact hlc

section Congr

variable {s t : State} (hc : t.cfg = s.cfg)
include hc

theorem rxInv_of_eq (h : rxPart t = rxPart s) (hs : RxInv s) : RxInv t := by
  obtain ⟨hdata, hlen, hcur, hpend, -, -⟩ := rxPart_eq_iff.1 h
  obtain ⟨hcap, hframe⟩ := hs
  exact ⟨by rw [hdata, hc, hcap], by rwa [hlen, hcur, hpend, hc]⟩

theorem txInv_of_eq (h : txPart t = txPart s) (hs : TxInv s) : TxInv t := by
  obtain ⟨hdata, hfill, -, hqueue, -, -⟩ := txPart_eq_iff.1 h
  obtain ⟨hcap, hle, hdepth⟩ := hs
  exact ⟨by rw [hdata, hc, hcap], by rwa [hfill, hc], by rwa [hqueue, hc]⟩

theorem notifyInv_of_eq (h : notifyPart t = notifyPart s) (hs : NotifyInv s) : NotifyInv t := by
  obtain ⟨hqueue, -⟩ := notifyPart_eq_iff.1 h
  rwa [NotifyInv, hqueue, hc]

end Congr

theorem controlInv_of_eq {s t : State} (h : controlPart t = controlPart s) (hs : ControlInv s) : ControlInv t := by
  obtain ⟨hencap, hlc, -⟩ := controlPart_eq_iff.1 h
  obtain ⟨he, hl⟩ := hs
  exact ⟨by rw [hencap, he], by rw [hlc, hl]⟩

/-! ### The receive path -/

/-- Taking a byte leaves the cursor inside a frame that still pends. -/
theorem rxInv_readTake {s : State} (hp : s.S.rxPend = true) (hs : RxInv s) : RxInv (readTake s) := by
  obtain ⟨hcap, hframe⟩ := hs
  obtain ⟨h1, hle, hcur⟩ := hframe hp
  rcases readTake_cases s with ⟨-, ht⟩ | ⟨hmore, ht⟩ <;> rw [ht]
  · exact ⟨hcap, nofun⟩
  · exact ⟨hcap, fun _ => ⟨h1, hle, by dsimp only; omega⟩⟩

theorem effect_rxInv {i : Instr} {s t : State} (h : Effect i s t) (hs : RxInv s) : RxInv t := by
  obtain ⟨hcap, hframe⟩ := id hs
  cases i
  case read ctx =>
    have hu : RxInv (entered ctx s) := rxInv_of_eq (entered_cfg ctx s) ((keepsBut_entered [] ctx s).rx (by simp)) hs
    obtain ⟨-, _, ⟨-, rfl⟩, ⟨hp, rfl⟩ | ⟨-, rfl⟩⟩ := h
    · exact rxInv_readTake (by rwa [entered_S]) hu
    · exact hu
  case discard =>
    obtain ⟨-, _, ⟨-, rfl⟩, rfl⟩ := h
    exact ⟨by simpa [discardFrame] using hcap, nofun⟩
  case initializeBlock =>
    obtain ⟨_, ⟨-, rfl⟩, rfl⟩ := h
    exact ⟨by simpa [initializedState, Memory.setArea] using hcap, nofun⟩
  case onPacketReceived =>
    obtain ⟨-, -, d, -, hd, ⟨-, rfl⟩ | ⟨h1, rfl⟩⟩ := h
    · exact hs
    · exact ⟨(length_writeAt _ _ _).trans hcap, fun _ => ⟨h1, hd, h1⟩⟩
  case hostBulkOut =>
    obtain ⟨-, -, -, rfl⟩ := h
    exact hs
  case busReset =>
    cases h
    exact hs
  all_goals
    have hk := effect_frame h
    exact rxInv_of_eq hk.cfg (hk.rx (by simp [touches])) hs

/-! ### The transmit path -/

theorem queue_lt_depth {ep : InEndpoint} {s : State} (h : endpointFree ep s = true) :
    (s.queue ep).length < ep.depth s.cfg := ((endpointFree_iff ep s).1 h).1

/-- A flush queues a packet only where there is room, and never stages. -/
theorem txInv_flushCore {s : State} (hs : TxInv s) : TxInv (flushCore s) := by
  obtain ⟨hcap, hfill, hdepth⟩ := hs
  rcases flushCore_cases s with ⟨-, ht⟩ | ⟨-, hfree, ht⟩ | ⟨-, -, ht⟩ <;> rw [ht]
  · exact ⟨hcap, hfill, hdepth⟩
  · refine ⟨(length_writeAt _ _ _).trans hcap, (Nat.sub_le _ _).trans hfill, ?_⟩
    have hroom : s.T.bulkInQ.length < s.cfg.bulkInDepth := queue_lt_depth hfree
    simpa [shiftStaged, accept] using hroom
  · exact ⟨hcap, hfill, hdepth⟩

theorem txInv_stage (b : Byte) {s : State} (hs : TxInv s) : TxInv (stage b s) := by
  obtain ⟨hcap, hfill, hdepth⟩ := hs
  exact ⟨(length_writeAt _ _ _).trans hcap, stage_txFill_le b hfill, hdepth⟩

theorem txInv_implicitFlush {s : State} (hs : TxInv s) : TxInv (implicitFlush s) := by
  unfold implicitFlush
  split
  · exact txInv_flushCore hs
  · exact hs

theorem txInv_writeStaged (b : Byte) {s : State} (hs : TxInv s) : TxInv (writeStaged b s) :=
  txInv_implicitFlush (txInv_stage b hs)

theorem txInv_stageBlock (bs : List Byte) {s : State} (hs : TxInv s) : TxInv (stageBlock bs s) := by
  obtain ⟨hcap, hfill, hdepth⟩ := hs
  have hroom : blockLength s bs ≤ s.cfg.txBufSize - s.S.txFill := Nat.min_le_right _ _
  exact ⟨(length_writeAt _ _ _).trans hcap, by simp only [stageBlock]; omega, hdepth⟩

theorem txInv_writeBlockRun (bs : List Byte) {s : State} (hs : TxInv s) : TxInv (writeBlockRun bs s) := by
  have hdrawn : TxInv s.drawn := hs
  unfold writeBlockRun
  split
  · exact txInv_flushCore (txInv_stageBlock bs hdrawn)
  · exact hdrawn

theorem txInv_entered (ctx : Ctx) {s : State} (hs : TxInv s) : TxInv (entered ctx s) :=
  txInv_of_eq (entered_cfg ctx s) ((keepsBut_entered [] ctx s).tx (by simp)) hs

theorem effect_txInv {i : Instr} {s t : State} (h : Effect i s t) (hs : TxInv s) : TxInv t := by
  obtain ⟨hcap, hfill, hdepth⟩ := id hs
  cases i
  case writeBlocking ctx b =>
    obtain ⟨-, _, ⟨-, rfl⟩, ⟨-, rfl⟩ | ⟨-, rfl⟩⟩ := h
    · exact txInv_writeStaged b (txInv_entered ctx hs)
    · exact txInv_entered ctx hs
  case writeFast ctx b =>
    obtain ⟨-, _, ⟨-, rfl⟩, rfl⟩ := h
    exact txInv_stage b (txInv_entered ctx hs)
  case writeBlock ctx bs =>
    obtain ⟨-, _, ⟨-, rfl⟩, rfl⟩ := h
    exact txInv_writeBlockRun bs (txInv_entered ctx hs)
  case flush ctx =>
    obtain ⟨-, _, ⟨-, rfl⟩, rfl⟩ := h
    exact txInv_flushCore (txInv_entered ctx hs)
  case onTransmitComplete =>
    obtain ⟨-, -, -, rfl⟩ := h
    exact txInv_flushCore ⟨hcap, hfill, hdepth⟩
  case initializeBlock ctx =>
    obtain ⟨_, ⟨-, rfl⟩, rfl⟩ := h
    obtain ⟨hcap', -, hdepth'⟩ := txInv_entered ctx hs
    exact ⟨hcap', Nat.zero_le _, hdepth'⟩
  case hostAckBulkIn =>
    obtain ⟨-, rfl⟩ := h
    exact ⟨hcap, hfill, (List.tail_sublist _).length_le.trans hdepth⟩
  case busReset =>
    cases h
    exact ⟨hcap, hfill, Nat.zero_le _⟩
  all_goals
    have hk := effect_frame h
    exact txInv_of_eq hk.cfg (hk.tx (by simp [touches])) hs

/-! ### The control images and the notification queue -/

theorem effect_controlInv {i : Instr} {s t : State} (h : Effect i s t) (hs : ControlInv s) : ControlInv t := by
  obtain ⟨hencap, hlc⟩ := id hs
  rcases control_writers h with hsame | ⟨ctx, rfl⟩ | hr | rfl | rfl
  · exact controlInv_of_eq hsame hs
  · obtain ⟨_, ⟨-, rfl⟩, rfl⟩ := h
    exact ⟨by simpa [initializedState, Memory.setArea] using hencap, rfl⟩
  · obtain ⟨-, hmem, -⟩ := request_writers hr h
    exact ⟨by rw [hmem, hencap], by rw [hmem, hlc]⟩
  · obtain ⟨-, -, p, hl, -⟩ := id h
    obtain ⟨-, hmem, -⟩ := setupEvent_writers hl h
    exact ⟨by rw [hmem, hencap], by rw [hmem, hlc]⟩
  · obtain ⟨-, -, d, -, ⟨-, -, rfl⟩ | ⟨-, hd, rfl⟩ | ⟨-, rfl⟩ | ⟨-, rfl⟩⟩ := h
    · rw [ControlInv, finishEncap_mem]
      exact ⟨(length_writeAt _ _ _).trans hencap, hlc⟩
    · exact ⟨hencap, hd⟩
    · exact hs
    · exact hs

theorem notifyInv_notifySerialState (st : Byte) {s : State} (hs : NotifyInv s) : NotifyInv (notifySerialState st s) := by
  unfold notifySerialState
  rcases enqueueTransmit_cases .intIn (ssPacket st) .auto s with ⟨hfree, ht⟩ | ⟨-, ht⟩ <;> rw [ht]
  · have hroom : s.T.intInQ.length < s.cfg.intInDepth := queue_lt_depth hfree
    simpa [NotifyInv, accept] using hroom
  · exact hs

theorem effect_notifyInv {i : Instr} {s t : State} (h : Effect i s t) (hs : NotifyInv s) : NotifyInv t := by
  cases i
  case sendSerialState ctx st =>
    obtain ⟨-, _, ⟨-, rfl⟩, rfl⟩ := h
    exact notifyInv_notifySerialState st
      (notifyInv_of_eq (entered_cfg ctx s) ((keepsBut_entered [] ctx s).notify (by simp)) hs)
  case hostAckIntIn =>
    obtain ⟨-, rfl⟩ := h
    exact (List.tail_sublist _).length_le.trans hs
  case busReset =>
    cases h
    exact Nat.zero_le _
  all_goals
    have hk := effect_frame h
    exact notifyInv_of_eq hk.cfg (hk.notify (by simp [touches])) hs

/-! ### The whole invariant -/

theorem stateInv_of_same {s t : State} (h : SameParts s t) (hs : StateInv s) : StateInv t := by
  rw [stateInv_iff] at hs ⊢
  obtain ⟨hv, hrx, htx, hcontrol, hnotify⟩ := hs
  exact ⟨h.cfg ▸ hv, rxInv_of_eq h.cfg h.rx hrx, txInv_of_eq h.cfg h.tx htx, controlInv_of_eq h.control hcontrol,
    notifyInv_of_eq h.cfg h.notify hnotify⟩

theorem effect_stateInv {i : Instr} {s t : State} (h : Effect i s t) (hs : StateInv s) : StateInv t := by
  rw [stateInv_iff] at hs ⊢
  obtain ⟨hv, hrx, htx, hcontrol, hnotify⟩ := hs
  exact ⟨(effect_frame h).cfg ▸ hv, effect_rxInv h hrx, effect_txInv h htx, effect_controlInv h hcontrol,
    effect_notifyInv h hnotify⟩

theorem stateInv_readTake {s : State} (hp : s.S.rxPend = true) (hs : StateInv s) : StateInv (readTake s) := by
  rw [stateInv_iff] at hs ⊢
  obtain ⟨hv, hrx, htx, hcontrol, hnotify⟩ := hs
  have hk := keepsBut_readTake s
  exact ⟨hk.cfg ▸ hv, rxInv_readTake hp hrx, txInv_of_eq hk.cfg (hk.tx (by simp)) htx,
    controlInv_of_eq (hk.control (by simp)) hcontrol, notifyInv_of_eq hk.cfg (hk.notify (by simp)) hnotify⟩

theorem stateInv_writeStaged (b : Byte) {s : State} (hs : StateInv s) : StateInv (writeStaged b s) := by
  rw [stateInv_iff] at hs ⊢
  obtain ⟨hv, hrx, htx, hcontrol, hnotify⟩ := hs
  have hk := keepsBut_writeStaged b s
  exact ⟨hk.cfg ▸ hv, rxInv_of_eq hk.cfg (hk.rx (by simp)) hrx, txInv_writeStaged b htx,
    controlInv_of_eq (hk.control (by simp)) hcontrol, notifyInv_of_eq hk.cfg (hk.notify (by simp)) hnotify⟩

/-- Settles O55: `StateInv` depends on the parts alone, and every effect and both resumed requests keep it (`step_keeps`). -/
theorem stepKeepsTheStateInvariant : Obligations.StepKeepsTheStateInvariant := by
  unfold Obligations.StepKeepsTheStateInvariant
  exact fun s t hs h => step_keeps (ok := fun _ => True) stateInv_of_same (fun _ => effect_stateInv) stateInv_readTake
    (fun {b s} _ => stateInv_writeStaged b) h (fun _ _ => trivial) hs

/-! ### The packets in flight ((I3), R158) -/

theorem inflightBounded_of_tx {s t : State} (h : txPart t = txPart s) (hs : InflightBounded s) : InflightBounded t := by
  obtain ⟨-, -, hinflight, hqueue, hacked, -⟩ := txPart_eq_iff.1 h
  rwa [InflightBounded, hinflight, hqueue, hacked]

/-- A flush puts as many packets in flight as it queues. -/
theorem inflightBounded_flushCore {s : State} (hs : InflightBounded s) : InflightBounded (flushCore s) := by
  rcases flushCore_cases s with ⟨-, ht⟩ | ⟨-, -, ht⟩ | ⟨-, -, ht⟩ <;> rw [ht]
  · exact hs
  · simp only [InflightBounded, shiftStaged, accept, State.drawn_S, State.drawn_T, List.length_append, List.length_singleton]
    omega
  · exact hs

theorem inflightBounded_writeStaged (b : Byte) {s : State} (hs : InflightBounded s) : InflightBounded (writeStaged b s) := by
  have hstaged : InflightBounded (stage b s) := hs
  unfold writeStaged implicitFlush
  split
  · exact inflightBounded_flushCore hstaged
  · exact hstaged

theorem inflightBounded_writeBlockRun (bs : List Byte) {s : State} (hs : InflightBounded s) :
    InflightBounded (writeBlockRun bs s) := by
  have hstaged : InflightBounded (stageBlock bs s.drawn) := hs
  unfold writeBlockRun
  split
  · exact inflightBounded_flushCore hstaged
  · exact hs

theorem effect_inflightBounded {i : Instr} {s t : State} (hi : i ≠ .busReset) (h : Effect i s t) (hs : InflightBounded s) :
    InflightBounded t := by
  have hentered (ctx : Ctx) : InflightBounded (entered ctx s) :=
    inflightBounded_of_tx ((keepsBut_entered [] ctx s).tx (by simp)) hs
  cases i
  case busReset => exact absurd rfl hi
  case writeBlocking ctx b =>
    obtain ⟨-, _, ⟨-, rfl⟩, ⟨-, rfl⟩ | ⟨-, rfl⟩⟩ := h
    · exact inflightBounded_writeStaged b (hentered ctx)
    · exact hentered ctx
  case writeFast ctx b =>
    obtain ⟨-, _, ⟨-, rfl⟩, rfl⟩ := h
    exact hentered ctx
  case writeBlock ctx bs =>
    obtain ⟨-, _, ⟨-, rfl⟩, rfl⟩ := h
    exact inflightBounded_writeBlockRun bs (hentered ctx)
  case flush ctx =>
    obtain ⟨-, _, ⟨-, rfl⟩, rfl⟩ := h
    exact inflightBounded_flushCore (hentered ctx)
  case onTransmitComplete =>
    obtain ⟨-, -, hack, rfl⟩ := h
    refine inflightBounded_flushCore ?_
    simp only [InflightBounded, completeOne_S, completeOne_T] at hs ⊢
    omega
  case initializeBlock =>
    obtain ⟨_, ⟨-, rfl⟩, rfl⟩ := h
    exact Nat.zero_le _
  case hostAckBulkIn =>
    obtain ⟨hq, rfl⟩ := h
    have hpos := List.length_pos_of_ne_nil hq
    simp only [InflightBounded, ackBulkIn, List.length_tail] at hs ⊢
    omega
  all_goals exact inflightBounded_of_tx ((effect_frame h).tx (by simp [touches])) hs

/-- Settles O59: a packet joins the count and the queue together, and an acknowledgement leaves both together. -/
theorem inflightCountIsBoundedUntilABusReset : Obligations.InflightCountIsBoundedUntilABusReset := by
  unfold Obligations.InflightCountIsBoundedUntilABusReset
  have same {s t : State} (h : SameParts s t) : InflightBounded s → InflightBounded t := inflightBounded_of_tx h.tx
  refine ⟨fun i s t hs h hi => exec_keeps same (effect_inflightBounded hi) h hs, fun s t hs h hop => ?_⟩
  exact step_keeps (ok := (· ≠ .busReset)) same effect_inflightBounded
    (fun {s} _ => inflightBounded_of_tx ((keepsBut_readTake s).tx (by simp))) (fun {b s} _ => inflightBounded_writeStaged b) h
    (fun i hi hb => hop (hb ▸ hi)) hs

end Sys2Proof.Machine
end

section
/-! SUPPORT. The other invariants: the host's duties (spec/46_transport_host.md R204-R210), the packets and logged requests of legal
length (spec/43_tx_path.md R160), and that power-on meets them all (spec/10_state.md section 7). -/

namespace Sys2Proof.Machine

/-! ### The host's duties -/

/-- R208: a landed packet fits the frame. -/
def LandedFits (s : State) : Prop := ∀ d, s.T.rxLatch = some d → d.length ≤ s.cfg.rxBufSize

/-- R204, R206, R113, R115: what the control endpoint's latches hold in each control state. -/
structure StageInv (s : State) : Prop where
  reqLe : ∀ n, s.T.ep0Req = some n → n ≤ 8
  encapFits : s.S.cs = .awaitingEncapsulatedCommand → ∀ d, s.T.dsLatch = some d → d.length ≤ 8
  setupFirst : s.T.setupLatch.isSome = true → s.T.dsLatch = none ∧ s.T.ep0Req = none
  lineReq : s.S.cs = .awaitingLineCoding → ∀ n, s.T.ep0Req = some n → n = 7
  lineFits : s.S.cs = .awaitingLineCoding → ∀ d, s.T.dsLatch = some d → d.length = 7

theorem contractInv_iff (s : State) : ContractInv s ↔ LandedFits s ∧ StageInv s :=
  ⟨fun h => ⟨h.rxFits, h.reqLe, h.encapFits, h.setupFirst, h.lineReq, h.lineFits⟩,
    fun ⟨hr, h⟩ => ⟨hr, h.reqLe, h.encapFits, h.setupFirst, h.lineReq, h.lineFits⟩⟩

theorem landedFits_of_eq {s t : State} (hc : t.cfg = s.cfg) (h : rxPart t = rxPart s) (hs : LandedFits s) : LandedFits t := by
  obtain ⟨-, -, -, -, -, hlatch⟩ := rxPart_eq_iff.1 h
  rwa [LandedFits, hlatch, hc]

theorem stageInv_of_eq {s t : State} (hcs : t.S.cs = s.S.cs) (h : endpointPart t = endpointPart s) (hs : StageInv s) :
    StageInv t := by
  obtain ⟨hsetup, hreq, hstage⟩ := endpointPart_eq_iff.1 h
  obtain ⟨h1, h2, h3, h4, h5⟩ := hs
  exact ⟨by rwa [hreq], by rwa [hcs, hstage], by rwa [hsetup, hreq, hstage], by rwa [hcs, hreq], by rwa [hcs, hstage]⟩

@[simp] theorem readTake_rxLatch (s : State) : (readTake s).T.rxLatch = s.T.rxLatch := by
  obtain ⟨_, _, _, _, h⟩ := readTake_frame s
  rw [h]

/-- Only HOST_BULK_OUT fills the latch, and its guard measures the packet. -/
theorem effect_landedFits {i : Instr} {s t : State} (h : Effect i s t) (hs : LandedFits s) : LandedFits t := by
  have hcfg := (effect_frame h).cfg
  cases i
  case read ctx =>
    obtain ⟨-, _, ⟨-, rfl⟩, ⟨-, rfl⟩ | ⟨-, rfl⟩⟩ := h
    · rwa [LandedFits, hcfg, readTake_rxLatch, entered_T]
    · rwa [LandedFits, hcfg, State.setMain_T, entered_T]
  case discard ctx =>
    obtain ⟨-, _, ⟨-, rfl⟩, rfl⟩ := h
    rw [LandedFits, hcfg]
    exact fun d hd => hs d (by simpa [discardFrame] using hd)
  case initializeBlock ctx =>
    obtain ⟨_, ⟨-, rfl⟩, rfl⟩ := h
    rw [LandedFits, hcfg]
    exact fun d hd => hs d (by simpa [initializedState] using hd)
  case onPacketReceived =>
    obtain ⟨-, -, d, -, -, ⟨-, rfl⟩ | ⟨-, rfl⟩⟩ := h
    · exact nofun
    · exact nofun
  case hostBulkOut d =>
    obtain ⟨-, -, hd, rfl⟩ := h
    intro d' hd'
    cases hd'
    exact hd
  case busReset =>
    cases h
    exact nofun
  all_goals exact landedFits_of_eq hcfg ((effect_frame h).rx (by simp [touches])) hs

/-- A control endpoint with nothing in it, in Idle. -/
structure EndpointEmpty (s : State) : Prop where
  cs : s.S.cs = .idle
  setup : s.T.setupLatch = none
  req : s.T.ep0Req = none
  stage : s.T.dsLatch = none

/-- A request started on an empty endpoint asks for what its control state awaits. -/
theorem stageInv_of_request {i : Instr} {s t : State} (hr : i.isRequest = true) (h : Effect i s t) (he : EndpointEmpty s) :
    StageInv t := by
  obtain ⟨hcs, hsetup, hreq, hstage⟩ := he
  cases i
  case sendEncapsulatedCommand r =>
    cases h
    constructor <;> simp [runSendEncapsulatedCommand, encapLength, hsetup, hstage]
  case setLineCoding r =>
    cases h
    constructor <;> simp [runSetLineCoding, hsetup, hstage]
  case getEncapsulatedCommand | getLineCoding | setControlLineState | sendBreak | ctrlOther =>
    cases h
    constructor <;>
      simp [runGetEncapsulatedCommand, runGetLineCoding, runSetControlLineState, runSendBreak, runCtrlOther, hcs, hsetup, hreq, hstage]
  all_goals cases hr

/-- In Idle the endpoint need only keep a request within 8 bytes and a waiting SETUP packet first. -/
theorem stageInv_of_idle {s : State} (hcs : s.S.cs = .idle) (hreq : ∀ n, s.T.ep0Req = some n → n ≤ 8)
    (hset : s.T.setupLatch.isSome = true → s.T.dsLatch = none ∧ s.T.ep0Req = none) : StageInv s := by
  refine ⟨hreq, fun h => ?_, hset, fun h => ?_, fun h => ?_⟩ <;> cases hcs.symm.trans h

/-- Completing a data stage leaves Idle, or requests the zero-length read. -/
theorem stageInv_of_dataStage {s t : State} (h : Effect .onDataStageComplete s t) (hs : StageInv s) : StageInv t := by
  obtain ⟨-, -, d, hl, h⟩ := h
  have hset : ¬ s.T.setupLatch.isSome = true := fun hset => by
    rw [(hs.setupFirst hset).1] at hl
    cases hl
  rcases h with ⟨-, -, rfl⟩ | ⟨-, -, rfl⟩ | ⟨-, rfl⟩ | ⟨hcs, rfl⟩
  · unfold finishEncap
    split
    · constructor <;> simp [storeEncap, Option.not_isSome_iff_eq_none.1 hset]
    · exact stageInv_of_idle rfl hs.reqLe fun h => absurd h hset
  · exact stageInv_of_idle rfl hs.reqLe fun h => absurd h hset
  · exact stageInv_of_idle rfl hs.reqLe fun h => absurd h hset
  · exact stageInv_of_idle hcs hs.reqLe fun h => absurd h hset

/-- The duties hold on: a SETUP packet clears the endpoint, a data stage has the requested length, and the control state moves only
when the endpoint is empty or its stage is taken. -/
theorem effect_stageInv {i : Instr} {s t : State} (hr : i.isRequest = false) (h : Effect i s t) (hs : StageInv s) : StageInv t := by
  obtain ⟨hreq, hencap, hset, hlineReq, hlineFits⟩ := id hs
  cases i
  case onSetupReceived =>
    obtain ⟨-, -, p, hl, rfl⟩ := h
    obtain ⟨hstage, hnone⟩ := hset (by rw [hl]; rfl)
    exact stageInv_of_request (isRequest_decodeSetup s.cfg p) (effect_runRequest p (setupTaken s)) ⟨rfl, rfl, hnone, hstage⟩
  case onDataStageComplete => exact stageInv_of_dataStage h hs
  case initializeBlock ctx =>
    obtain ⟨_, ⟨-, rfl⟩, rfl⟩ := h
    exact stageInv_of_idle rfl (by simpa [initializedState] using hreq) (by simpa [initializedState] using hset)
  case hostSetup p =>
    cases h
    exact ⟨nofun, fun _ => nofun, fun _ => ⟨rfl, rfl⟩, fun _ => nofun, fun _ => nofun⟩
  case hostDataOut d =>
    obtain ⟨hd, -, rfl⟩ := h
    refine ⟨nofun, fun _ d' hd' => ?_, fun hsome => ?_, fun _ => nofun, fun hcs d' hd' => ?_⟩
    · cases hd'
      exact hreq _ hd
    · rw [(hset hsome).2] at hd
      cases hd
    · cases hd'
      exact hlineReq hcs _ hd
  case busReset =>
    cases h
    exact ⟨nofun, fun _ => nofun, nofun, fun _ => nofun, fun _ => nofun⟩
  case sendEncapsulatedCommand | getEncapsulatedCommand | setLineCoding | getLineCoding | setControlLineState | sendBreak
      | ctrlOther => cases hr
  all_goals
    have hk := effect_frame h
    obtain ⟨-, -, -, -, -, -, hcs⟩ := controlPart_eq_iff.1 (hk.control (by simp [touches]))
    exact stageInv_of_eq hcs (hk.endpoint (by simp [touches])) hs

theorem contractInv_of_same {s t : State} (h : SameParts s t) (hs : ContractInv s) : ContractInv t := by
  rw [contractInv_iff] at hs ⊢
  obtain ⟨hr, hst⟩ := hs
  obtain ⟨-, -, -, -, -, -, hcs⟩ := controlPart_eq_iff.1 h.control
  exact ⟨landedFits_of_eq h.cfg h.rx hr, stageInv_of_eq hcs h.endpoint hst⟩

theorem effect_contractInv {i : Instr} {s t : State} (hr : i.isRequest = false) (h : Effect i s t) (hs : ContractInv s) :
    ContractInv t := by
  rw [contractInv_iff] at hs ⊢
  exact ⟨effect_landedFits h hs.1, effect_stageInv hr h hs.2⟩

theorem contractInv_readTake {s : State} (hs : ContractInv s) : ContractInv (readTake s) := by
  rw [contractInv_iff] at hs ⊢
  have hk := keepsBut_readTake s
  obtain ⟨-, -, -, -, -, -, hcs⟩ := controlPart_eq_iff.1 (hk.control (by simp))
  refine ⟨?_, stageInv_of_eq hcs (hk.endpoint (by simp)) hs.2⟩
  rw [LandedFits, hk.cfg, readTake_rxLatch]
  exact hs.1

theorem contractInv_writeStaged (b : Byte) {s : State} (hs : ContractInv s) : ContractInv (writeStaged b s) := by
  rw [contractInv_iff] at hs ⊢
  have hk := keepsBut_writeStaged b s
  obtain ⟨-, -, -, -, -, -, hcs⟩ := controlPart_eq_iff.1 (hk.control (by simp))
  exact ⟨landedFits_of_eq hk.cfg (hk.rx (by simp)) hs.1, stageInv_of_eq hcs (hk.endpoint (by simp)) hs.2⟩

/-- A turn's word is of the first level: requests run only inside ON_SETUP_RECEIVED (R112). -/
theorem isRequest_of_nextOp {s : State} {i : Instr} (h : nextOp s = some i) : i.isRequest = false := by
  unfold nextOp at h
  split at h
  · split at h
    · rename_i hd
      cases h
      obtain ⟨o, ctx, tl, -, hf, -, hp⟩ := decode_eq_ok hd
      exact (encode_of_decodePayload hf hp).2.1
    · cases h
  · cases h
  · cases h

/-- Settles O57: the landed packet and the control endpoint each keep their duty over every effect and both resumed requests. -/
theorem stepKeepsTheHostContract : Obligations.StepKeepsTheHostContract := by
  unfold Obligations.StepKeepsTheHostContract
  exact fun s t _ hs h => step_keeps (ok := fun i => i.isRequest = false) contractInv_of_same effect_contractInv
    (fun _ => contractInv_readTake) (fun {b s} _ => contractInv_writeStaged b) h (fun _ => isRequest_of_nextOp) hs

/-- Under the contract an operation raises no length fault: what `Raises` asks of the latches is what the duties exclude. -/
theorem raises_under_contract {i : Instr} {s : State} {r : FaultReason} (hs : ContractInv s) (h : Raises i s r) :
    r ≠ .rxOversize ∧ r ≠ .dataStageLength := by
  cases r with
  | notInitialized => exact ⟨nofun, nofun⟩
  | blockingDeadlock => exact ⟨nofun, nofun⟩
  | rxOversize =>
    obtain ⟨-, d, hl, hd⟩ := h
    exact absurd (hs.rxFits d hl) hd.not_ge
  | dataStageLength =>
    obtain ⟨-, d, hl, ⟨hcs, hd⟩ | ⟨hcs, hd⟩⟩ := h
    · exact absurd (hs.encapFits hcs d hl) hd.not_ge
    · exact absurd (hs.lineFits hcs d hl) hd

/-- Settles O58: a step without an operation raises nothing (`step_none_frame`), and an operation no length fault
(`raises_under_contract`). -/
theorem lengthFaultsAreUnreachableUnderTheContract : Obligations.LengthFaultsAreUnreachableUnderTheContract := by
  unfold Obligations.LengthFaultsAreUnreachableUnderTheContract
  intro s t hs hf h
  have clean {u : State} (hu : u.S.fault = none) : u.S.fault ≠ some .rxOversize ∧ u.S.fault ≠ some .dataStageLength := by
    rw [hu]
    exact ⟨nofun, nofun⟩
  cases hop : nextOp s with
  | none =>
    rcases step_none_frame h hop with hk | hk | rfl
    · exact clean (hk.fault.trans hf)
    · exact clean (hk.fault.trans hf)
    · exact clean hf
  | some i =>
    obtain ⟨-, ⟨j, -, he⟩ | ⟨hn, -⟩ | ⟨hn, -⟩⟩ := step_nextOp h
    · rcases exec_frame he with ⟨r, hr, rfl⟩ | ⟨-, hk⟩
      · have hpop : ContractInv s.popTurn := contractInv_of_same (s := s) (sameParts_of_eq rfl rfl rfl rfl) hs
        obtain ⟨h1, h2⟩ := raises_under_contract hpop hr
        exact ⟨fun h => h1 (Option.some.inj h), fun h => h2 (Option.some.inj h)⟩
      · exact clean (hk.fault.trans hf)
    · cases hn.symm.trans hop
    · cases hn.symm.trans hop

end Sys2Proof.Machine
end

section
/-! SUPPORT. The packets and the logged requests (spec/43_tx_path.md R160, spec/46_transport_host.md R195-R197): what an effect adds to
the queues and to the log is legal, and what the host receives was queued. And power-on (spec/10_state.md section 7). -/

namespace Sys2Proof.Machine

/-- R160, R195-R197: the lengths a logged handover or request may have. -/
def LegalEntry (c : Config) : LogEntry → Prop
  | .rearm | .stall | .zlStatus => True
  | .dataStage n => n ≤ 8
  | .ctrlIn bs => bs.length ≤ 8
  | .bulkIn p => bulkPacketOk c p
  | .intIn p => p.length = 10

/-- From `s` to `t` the queues and the log grew by legal packets and entries alone, and the host got what was queued. -/
structure AddsLegal (s t : State) : Prop where
  cfg : t.cfg = s.cfg
  bulkQueue : ∀ p ∈ t.T.bulkInQ, p ∈ s.T.bulkInQ ∨ bulkPacketOk s.cfg p
  bulkHost : ∀ p ∈ t.H.bulkIn, p ∈ s.H.bulkIn ∨ p ∈ s.T.bulkInQ
  intQueue : ∀ p ∈ t.T.intInQ, p ∈ s.T.intInQ ∨ p.length = 10
  intHost : ∀ p ∈ t.H.notif, p ∈ s.H.notif ∨ p ∈ s.T.intInQ
  log : ∀ e ∈ t.T.log, e ∈ s.T.log ∨ LegalEntry s.cfg e

/-- A member of a list with one legal element added was there before or is legal. -/
theorem mem_or_of_append_singleton {α : Type} {p : α → Prop} {l : List α} {x y : α} (h : y ∈ l ++ [x]) (hx : p x) :
    y ∈ l ∨ p y :=
  (List.mem_append.1 h).imp_right fun hy => by rwa [List.mem_singleton.1 hy]

theorem PacketsOk.of_adds {s t : State} (hs : PacketsOk s) (h : AddsLegal s t) : PacketsOk t := by
  obtain ⟨hc, hbq, hbh, hiq, hih, hlog⟩ := h
  constructor
  · exact fun p hp => hc ▸ (hbq p hp).elim (hs.bulkQueue p) id
  · exact fun p hp => hc ▸ (hbh p hp).elim (hs.bulkHost p) (hs.bulkQueue p)
  · exact fun p hp => hc ▸ (hlog _ hp).elim (hs.bulkLog p) id
  · exact fun p hp => (hiq p hp).elim (hs.intQueue p) id
  · exact fun p hp => (hih p hp).elim (hs.intHost p) (hs.intQueue p)
  · exact fun p hp => (hlog _ hp).elim (hs.intLog p) id
  · exact fun n hn => (hlog _ hn).elim (hs.stageLog n) id
  · exact fun bs hbs => (hlog _ hbs).elim (hs.ctrlLog bs) id

/-- Queues and host record as they were, and only legal entries logged. -/
theorem addsLegal_of_log {s t : State} (hc : t.cfg = s.cfg) (hbq : t.T.bulkInQ = s.T.bulkInQ) (hiq : t.T.intInQ = s.T.intInQ)
    (hH : t.H = s.H) (hlog : ∃ l, t.T.log = s.T.log ++ l ∧ ∀ e ∈ l, LegalEntry s.cfg e) : AddsLegal s t := by
  obtain ⟨l, hl, hlegal⟩ := hlog
  refine ⟨hc, fun p hp => .inl (hbq ▸ hp), fun p hp => .inl (hH ▸ hp), fun p hp => .inl (hiq ▸ hp), fun p hp => .inl (hH ▸ hp),
    fun e he => ?_⟩
  rw [hl, List.mem_append] at he
  exact he.imp_right (hlegal e)

theorem addsLegal_of_same {s t : State} (h : SameParts s t) : AddsLegal s t := by
  obtain ⟨-, -, -, hbq, -⟩ := txPart_eq_iff.1 h.tx
  obtain ⟨hiq, -⟩ := notifyPart_eq_iff.1 h.notify
  exact addsLegal_of_log h.cfg hbq hiq h.host ⟨[], by rw [h.log, List.append_nil], by simp⟩

/-- An effect that touches neither the transmit path nor the notification endpoint nor the host, and logs one legal entry at most. -/
theorem addsLegal_of_keepsBut {ps : List Part} {s t : State} (h : KeepsBut ps s t) (htx : .tx ∉ ps) (hn : .notify ∉ ps)
    (hh : .host ∉ ps) (hlog : ∃ l, t.T.log = s.T.log ++ l ∧ ∀ e ∈ l, LegalEntry s.cfg e) : AddsLegal s t := by
  obtain ⟨-, -, -, hbq, -⟩ := txPart_eq_iff.1 (h.tx htx)
  obtain ⟨hiq, -⟩ := notifyPart_eq_iff.1 (h.notify hn)
  exact addsLegal_of_log h.cfg hbq hiq (h.host hh) hlog

theorem PacketsOk.of_same {s t : State} (hs : PacketsOk s) (h : SameParts s t) : PacketsOk t :=
  hs.of_adds (addsLegal_of_same h)

/-- The parts a write of which leaves the queues and the host record alone. -/
def queueFree (ps : List Part) : Prop := .tx ∉ ps ∧ .notify ∉ ps ∧ .host ∉ ps

/-- An effect that leaves the queues alone and logs one legal entry. -/
theorem PacketsOk.of_entry {ps : List Part} {s t : State} (e : LogEntry) (hs : PacketsOk s) (hk : KeepsBut ps s t)
    (hq : queueFree ps) (hlog : t.T.log = s.T.log ++ [e]) (he : LegalEntry s.cfg e) : PacketsOk t := by
  obtain ⟨htx, hnotify, hhost⟩ := hq
  exact hs.of_adds (addsLegal_of_keepsBut hk htx hnotify hhost ⟨[e], hlog, fun _ h => (List.mem_singleton.1 h) ▸ he⟩)

/-- An effect that leaves the queues alone and logs nothing. -/
theorem PacketsOk.of_quiet {ps : List Part} {s t : State} (hs : PacketsOk s) (hk : KeepsBut ps s t) (hq : queueFree ps)
    (hlog : t.T.log = s.T.log) : PacketsOk t := by
  obtain ⟨htx, hnotify, hhost⟩ := hq
  exact hs.of_adds (addsLegal_of_keepsBut hk htx hnotify hhost ⟨[], by rw [hlog, List.append_nil], by simp⟩)

/-! ### What a flush hands over (R153, R160) -/

theorem txPktMax_bounds {c : Config} (h : c.valid = true) : 1 ≤ c.txPktMax ∧ c.txPktMax < c.bulkInMps := by
  simp only [Config.valid, Bool.and_eq_true, decide_eq_true_eq] at h
  unfold Config.txPktMax
  omega

/-- The packet of a flush is never empty and never of full size. -/
theorem bulkPacketOk_flush {s : State} (hv : s.cfg.valid = true) (hi : TxInv s) (h0 : s.S.txFill ≠ 0) :
    bulkPacketOk s.cfg (s.S.mem.read .txData 0 (flushLength s)) := by
  obtain ⟨hcap, hfill, -⟩ := hi
  obtain ⟨hmin, hmax⟩ := txPktMax_bounds hv
  have hle : flushLength s ≤ s.S.txFill := flushLength_le_txFill s
  have hpkt : flushLength s ≤ s.cfg.txPktMax := Nat.min_le_right _ _
  have hpos : 1 ≤ flushLength s := Nat.le_min.2 ⟨Nat.one_le_iff_ne_zero.2 h0, hmin⟩
  have hlen : (s.S.mem.read .txData 0 (flushLength s)).length = flushLength s :=
    length_read (by simp only [Memory.area]; omega)
  rw [bulkPacketOk, hlen]
  exact ⟨hpos, hpkt, hpkt.trans_lt hmax⟩

theorem packetsOk_flushCore {s : State} (hv : s.cfg.valid = true) (hi : TxInv s) (hs : PacketsOk s) : PacketsOk (flushCore s) := by
  rcases flushCore_cases s with ⟨-, ht⟩ | ⟨h0, -, ht⟩ | ⟨-, -, ht⟩ <;> rw [ht]
  · exact hs
  · have hp := bulkPacketOk_flush hv hi h0
    exact hs.of_adds ⟨rfl, fun p hmem => mem_or_of_append_singleton hmem hp, fun p => .inl, fun p => .inl, fun p => .inl,
      fun e hmem => mem_or_of_append_singleton (p := LegalEntry s.cfg) hmem hp⟩
  · exact hs.of_same (sameParts_of_eq rfl rfl rfl rfl)

theorem packetsOk_stage (b : Byte) {s : State} (hs : PacketsOk s) : PacketsOk (stage b s) :=
  hs.of_adds (addsLegal_of_log rfl rfl rfl rfl ⟨[], by simp [stage], by simp⟩)

theorem packetsOk_writeStaged (b : Byte) {s : State} (hv : s.cfg.valid = true) (hi : TxInv s) (hs : PacketsOk s) :
    PacketsOk (writeStaged b s) := by
  have hflush : PacketsOk (implicitFlush (stage b s)) := by
    unfold implicitFlush
    split
    · exact packetsOk_flushCore hv (txInv_stage b hi) (packetsOk_stage b hs)
    · exact packetsOk_stage b hs
  exact hflush.of_same (sameParts_of_eq rfl rfl rfl rfl)

theorem packetsOk_writeBlockRun (bs : List Byte) {s : State} (hv : s.cfg.valid = true) (hi : TxInv s) (hs : PacketsOk s) :
    PacketsOk (writeBlockRun bs s) := by
  have hdrawn : PacketsOk s.drawn := hs.of_same (sameParts_of_eq rfl rfl rfl rfl)
  have hstaged : PacketsOk (stageBlock bs s.drawn) :=
    hdrawn.of_adds (addsLegal_of_log rfl rfl rfl rfl ⟨[], by simp [stageBlock], by simp⟩)
  have hinv : TxInv (stageBlock bs s.drawn) := txInv_stageBlock bs (s := s.drawn) hi
  unfold writeBlockRun
  split
  · exact (packetsOk_flushCore (s := stageBlock bs s.drawn) hv hinv hstaged).of_same (sameParts_of_eq rfl rfl rfl rfl)
  · exact hdrawn.of_same (sameParts_of_eq rfl rfl rfl rfl)

/-! ### The other logged effects -/

theorem packetsOk_readTake {s : State} (hs : PacketsOk s) : PacketsOk (readTake s) := by
  rcases readTake_cases s with ⟨-, ht⟩ | ⟨-, ht⟩
  · exact hs.of_entry .rearm (keepsBut_readTake s) (by simp [queueFree]) (by rw [ht]) trivial
  · exact hs.of_quiet (keepsBut_readTake s) (by simp [queueFree]) (by rw [ht])

/-- A notification has ten bytes (R170). -/
theorem packetsOk_notifySerialState (st : Byte) {s : State} (hs : PacketsOk s) : PacketsOk (notifySerialState st s) := by
  unfold notifySerialState
  rcases enqueueTransmit_cases .intIn (ssPacket st) .auto s with ⟨-, ht⟩ | ⟨-, ht⟩ <;> rw [ht]
  · exact hs.of_adds ⟨rfl, fun p => .inl, fun p => .inl,
      fun p hmem => mem_or_of_append_singleton (l := s.T.intInQ) (p := fun q => q.length = 10) hmem rfl, fun p => .inl,
      fun e hmem => mem_or_of_append_singleton (p := LegalEntry s.cfg) hmem rfl⟩
  · exact hs.of_same (sameParts_of_eq rfl rfl rfl rfl)

/-- A request logs one entry, of a legal length (R113-R119). -/
theorem request_logs {i : Instr} {s t : State} (c : Config) (hr : i.isRequest = true) (h : Effect i s t) :
    ∃ e, t.T.log = s.T.log ++ [e] ∧ LegalEntry c e := by
  cases i
  case sendEncapsulatedCommand r =>
    cases h
    exact ⟨.dataStage (encapLength r), rfl, Nat.min_le_right _ _⟩
  case getEncapsulatedCommand r =>
    cases h
    exact ⟨.ctrlIn _, rfl, (List.length_take_le _ _).trans (Nat.min_le_right _ _)⟩
  case setLineCoding =>
    cases h
    exact ⟨.dataStage 7, rfl, by simp [LegalEntry]⟩
  case getLineCoding =>
    cases h
    exact ⟨.ctrlIn _, rfl, (List.length_take_le _ _).trans (by omega)⟩
  case setControlLineState | sendBreak =>
    cases h
    exact ⟨.zlStatus, rfl, trivial⟩
  case ctrlOther =>
    cases h
    exact ⟨.stall, rfl, trivial⟩
  all_goals cases hr

theorem queueFree_of_isRequest {i : Instr} (hr : i.isRequest = true) : queueFree (touches i) := by
  cases i
  case sendEncapsulatedCommand | getEncapsulatedCommand | setLineCoding | getLineCoding | setControlLineState | sendBreak
      | ctrlOther => simp [queueFree, touches]
  all_goals cases hr

theorem packetsOk_request {i : Instr} {s t : State} (hr : i.isRequest = true) (h : Effect i s t) (hs : PacketsOk s) :
    PacketsOk t := by
  obtain ⟨e, hlog, he⟩ := request_logs s.cfg hr h
  exact hs.of_entry e (effect_frame h) (queueFree_of_isRequest hr) hlog he

theorem packetsOk_dataStage {s t : State} (h : Effect .onDataStageComplete s t) (hs : PacketsOk s) : PacketsOk t := by
  have hk := effect_frame h
  have hq : queueFree (touches .onDataStageComplete) := by simp [queueFree, touches]
  obtain ⟨-, -, d, -, ⟨-, -, rfl⟩ | ⟨-, -, rfl⟩ | ⟨-, rfl⟩ | ⟨-, rfl⟩⟩ := h
  · by_cases hmps : d.length = (storeEncap d { s with T := { s.T with dsLatch := none } }).cfg.ep0Mps
    · rw [finishEncap_full hmps] at hk ⊢
      exact hs.of_entry (.dataStage 0) hk hq rfl (Nat.zero_le _)
    · rw [finishEncap_short hmps] at hk ⊢
      exact hs.of_entry .zlStatus hk hq rfl trivial
  · exact hs.of_entry .zlStatus hk hq rfl trivial
  · exact hs.of_entry .zlStatus hk hq rfl trivial
  · exact hs.of_quiet hk hq rfl

/-- Every effect keeps the packets legal. -/
theorem effect_packetsOk {i : Instr} {s t : State} (h : Effect i s t) (hinv : StateInv s) (hs : PacketsOk s) : PacketsOk t := by
  obtain ⟨hv, -, hi, -⟩ := (stateInv_iff s).1 hinv
  have hentered (ctx : Ctx) : PacketsOk (entered ctx s) := hs.of_same (keepsBut_entered [] ctx s).same
  have hventered (ctx : Ctx) : (entered ctx s).cfg.valid = true := by rwa [entered_cfg]
  have hk := effect_frame h
  cases i
  case read ctx =>
    obtain ⟨-, _, ⟨-, rfl⟩, ⟨-, rfl⟩ | ⟨-, rfl⟩⟩ := h
    · exact packetsOk_readTake (hentered ctx)
    · exact (hentered ctx).of_same (sameParts_of_eq rfl rfl rfl rfl)
  case discard ctx =>
    obtain ⟨-, _, ⟨-, rfl⟩, rfl⟩ := h
    exact hs.of_entry .rearm hk (by simp [queueFree, touches]) (by simp [discardFrame]) trivial
  case onPacketReceived =>
    obtain ⟨-, -, d, -, -, ⟨-, rfl⟩ | ⟨-, rfl⟩⟩ := h
    · exact hs.of_entry .rearm hk (by simp [queueFree, touches]) rfl trivial
    · exact hs.of_quiet hk (by simp [queueFree, touches]) rfl
  case writeBlocking ctx b =>
    obtain ⟨-, _, ⟨-, rfl⟩, ⟨-, rfl⟩ | ⟨-, rfl⟩⟩ := h
    · exact packetsOk_writeStaged b (hventered ctx) (txInv_entered ctx hi) (hentered ctx)
    · exact (hentered ctx).of_same (sameParts_of_eq rfl rfl rfl rfl)
  case writeFast ctx b =>
    obtain ⟨-, _, ⟨-, rfl⟩, rfl⟩ := h
    exact (packetsOk_stage b (hentered ctx)).of_same (sameParts_of_eq rfl rfl rfl rfl)
  case writeBlock ctx bs =>
    obtain ⟨-, _, ⟨-, rfl⟩, rfl⟩ := h
    exact packetsOk_writeBlockRun bs (hventered ctx) (txInv_entered ctx hi) (hentered ctx)
  case flush ctx =>
    obtain ⟨-, _, ⟨-, rfl⟩, rfl⟩ := h
    exact (packetsOk_flushCore (hventered ctx) (txInv_entered ctx hi) (hentered ctx)).of_same (sameParts_of_eq rfl rfl rfl rfl)
  case onTransmitComplete =>
    obtain ⟨-, -, -, rfl⟩ := h
    exact packetsOk_flushCore hv hi (hs.of_adds (addsLegal_of_log rfl rfl rfl rfl ⟨[], by simp, by simp⟩))
  case sendSerialState ctx st =>
    obtain ⟨-, _, ⟨-, rfl⟩, rfl⟩ := h
    exact packetsOk_notifySerialState st (hentered ctx)
  case initializeBlock ctx =>
    obtain ⟨_, ⟨-, rfl⟩, rfl⟩ := h
    exact (hentered ctx).of_adds (addsLegal_of_log rfl rfl rfl rfl ⟨[], by simp [initializedState], by simp⟩)
  case hostAckBulkIn =>
    obtain ⟨-, rfl⟩ := h
    refine hs.of_adds ⟨rfl, fun p hp => .inl (List.mem_of_mem_tail hp), fun p hp => ?_, fun p => .inl, fun p => .inl, fun e => .inl⟩
    exact (List.mem_append.1 hp).imp_right List.mem_of_mem_take
  case hostAckIntIn =>
    obtain ⟨-, rfl⟩ := h
    refine hs.of_adds ⟨rfl, fun p => .inl, fun p => .inl, fun p hp => .inl (List.mem_of_mem_tail hp), fun p hp => ?_, fun e => .inl⟩
    exact (List.mem_append.1 hp).imp_right List.mem_of_mem_take
  case busReset =>
    cases h
    exact hs.of_adds ⟨rfl, nofun, fun p => .inl, nofun, fun p => .inl, fun e => .inl⟩
  case onSetupReceived =>
    obtain ⟨-, -, p, -, rfl⟩ := h
    have htaken : PacketsOk (setupTaken s) :=
      hs.of_adds (addsLegal_of_log rfl rfl rfl rfl ⟨[], by simp [setupTaken], by simp⟩)
    exact packetsOk_request (isRequest_decodeSetup s.cfg p) (effect_runRequest p (setupTaken s)) htaken
  case onDataStageComplete => exact packetsOk_dataStage h hs
  case sendEncapsulatedCommand | getEncapsulatedCommand | setLineCoding | getLineCoding | setControlLineState | sendBreak
      | ctrlOther => exact packetsOk_request rfl h hs
  all_goals exact hs.of_quiet hk (by simp [queueFree, touches]) (hk.log (by simp [touches]))

/-- Settles O25: together with the state invariant, which bounds what a flush hands over, legality is kept by every effect and both
resumed requests. -/
theorem stepKeepsPacketsLegal : Obligations.StepKeepsPacketsLegal := by
  unfold Obligations.StepKeepsPacketsLegal
  intro s t hinv hs h
  have hboth : StateInv t ∧ PacketsOk t := by
    refine step_keeps (P := fun s => StateInv s ∧ PacketsOk s) (ok := fun _ => True)
      (fun h ⟨hi, hp⟩ => ⟨stateInv_of_same h hi, hp.of_same h⟩)
      (fun _ h ⟨hi, hp⟩ => ⟨effect_stateInv h hi, effect_packetsOk h hi hp⟩)
      (fun hpend ⟨hi, hp⟩ => ⟨stateInv_readTake hpend hi, packetsOk_readTake hp⟩)
      (fun {b s} _ ⟨hi, hp⟩ => ⟨stateInv_writeStaged b hi, ?_⟩) h (fun _ _ => trivial) ⟨hinv, hs⟩
    obtain ⟨hv, -, htx, -⟩ := (stateInv_iff s).1 hi
    exact packetsOk_writeStaged b hv htx hp
  exact hboth.2

/-! ### Power-on (R49-R56) -/

theorem powerOn_stateInv {c : Config} (h : c.valid = true) : StateInv (State.powerOn c) := by
  have hencap : c.encapPowerOn.length = 8 := by
    simp only [Config.valid, Bool.and_eq_true, beq_iff_eq] at h
    exact h.2
  rw [stateInv_iff]
  exact ⟨h, ⟨List.length_replicate, nofun⟩, ⟨List.length_replicate, Nat.zero_le _, Nat.zero_le _⟩, ⟨hencap, rfl⟩, Nat.zero_le _⟩

theorem powerOn_contractInv (c : Config) : ContractInv (State.powerOn c) := by
  rw [contractInv_iff]
  exact ⟨nofun, stageInv_of_idle rfl nofun nofun⟩

theorem powerOn_packetsOk (c : Config) : PacketsOk (State.powerOn c) :=
  ⟨nofun, nofun, nofun, nofun, nofun, nofun, nofun, nofun⟩

/-- Settles O56: nothing is queued, staged, pending or awaited at power-on; reset's parameters are legal. -/
theorem powerOnMeetsTheInvariants : Obligations.PowerOnMeetsTheInvariants := by
  unfold Obligations.PowerOnMeetsTheInvariants
  have powerOn {c : Config} (h : c.valid = true) :
      StateInv (State.powerOn c) ∧ ContractInv (State.powerOn c) ∧ PacketsOk (State.powerOn c) ∧
        InflightBounded (State.powerOn c) ∧ HeldWhilePending (State.powerOn c) :=
    ⟨powerOn_stateInv h, powerOn_contractInv c, powerOn_packetsOk c, Nat.zero_le _, nofun⟩
  exact ⟨fun c => powerOn, powerOn (c := Config.vectors) rfl⟩

end Sys2Proof.Machine
end

section
/-! SUPPORT. The byte streams of the two paths: a pending frame is read out in order (spec/42_rx_path.md R145), and no byte on its way to
the host is lost, doubled or reordered (spec/43_tx_path.md R161). -/

namespace Sys2Proof.Machine

/-! ### Reading a frame out (P-RX1) -/

theorem length_rxUnread {s : State} (hs : StateInv s) (hp : s.S.rxPend = true) :
    (rxUnread s).length = s.S.rxLen - s.S.rxCur := by
  obtain ⟨-, ⟨hcap, hframe⟩, -⟩ := (stateInv_iff s).1 hs
  obtain ⟨-, hle, hcur⟩ := hframe hp
  exact length_read (by simp only [Memory.area]; omega)

/-- The unread bytes begin with the byte at the cursor. -/
theorem rxUnread_eq_cons {s : State} (hs : StateInv s) (hp : s.S.rxPend = true) :
    rxUnread s = s.S.mem.byte .rxData s.S.rxCur :: s.S.mem.read .rxData (s.S.rxCur + 1) (s.S.rxLen - (s.S.rxCur + 1)) := by
  obtain ⟨-, ⟨hcap, hframe⟩, -⟩ := (stateInv_iff s).1 hs
  obtain ⟨-, hle, hcur⟩ := hframe hp
  have hlt : s.S.rxCur < (s.S.mem.area .rxData).length := by simp only [Memory.area]; omega
  have hbyte : s.S.mem.byte .rxData s.S.rxCur = (s.S.mem.area .rxData)[s.S.rxCur] := by
    rw [Memory.byte_eq, List.getElem?_eq_getElem hlt, Option.getD_some]
  have hcount : s.S.rxLen - s.S.rxCur = (s.S.rxLen - (s.S.rxCur + 1)) + 1 := by omega
  rw [rxUnread, Memory.read, Memory.read, hbyte, List.drop_eq_getElem_cons hlt, hcount, List.take_succ_cons]

/-- What the READs of a frame leave: no frame pending, the endpoint armed once, the bytes and the length as they were. -/
structure ReadOut (s t : State) : Prop where
  pend : t.S.rxPend = false
  armed : t.T.rxArmed = true
  log : t.T.log = s.T.log ++ [.rearm]
  mem : t.S.mem = s.S.mem
  len : t.S.rxLen = s.S.rxLen
  cur : t.S.rxCur = s.S.rxLen

theorem appReady_entered {ctx : Ctx} {s : State} (h : AppReady ctx s) : AppReady ctx (entered ctx s) := by
  obtain ⟨hf, ho, hi⟩ := h
  refine ⟨by rwa [entered_S], ?_, by rwa [entered_S]⟩
  cases ctx
  · rfl
  · exact ho

/-- After a READ that does not end its frame the next READ is ready too. -/
theorem appReady_of_read {ctx : Ctx} {s u : State} (h : AppReady ctx s) (hfault : u.S.fault = s.S.fault) (hinit : u.S.init = s.S.init)
    (hC : u.C = (entered ctx s).C) (hc : u.cfg = s.cfg) : AppReady ctx u := by
  obtain ⟨hf, ho, hi⟩ := appReady_entered h
  rw [entered_S] at hf hi
  refine ⟨hfault.trans hf, ?_, hinit.trans hi⟩
  cases ctx
  · simpa only [ctxOpen, mainFree, hC] using ho
  · simpa only [ctxOpen, irqOpen, hC, hc, entered_cfg] using ho

/-- From any point of a pending frame the READs return the unread bytes in order, by induction on how many there are. -/
theorem readsReturn_rxUnread {ctx : Ctx} (n : Nat) : ∀ {s : State}, StateInv s → AppReady ctx s → s.S.rxPend = true →
    s.S.rxLen - s.S.rxCur = n + 1 → ∃ t, ReadsReturn ctx (rxUnread s) s t ∧ ReadOut s t := by
  induction n with
  | zero =>
    intro s hs h hp hn
    have hlast : s.S.rxCur + 1 = s.S.rxLen := by omega
    have hrun := (readTakesTheByteAtTheCursor ctx s h hp).2 hlast
    rw [rxUnread_eq_cons hs hp, show s.S.rxLen - (s.S.rxCur + 1) = 0 by omega]
    exact ⟨_, ⟨_, hrun, rfl, rfl⟩, rfl, rfl, rfl, rfl, rfl, hlast⟩
  | succ n ih =>
    intro s hs h hp hn
    have hmore : s.S.rxCur + 1 ≠ s.S.rxLen := by omega
    have hrun := (readTakesTheByteAtTheCursor ctx s h hp).1 hmore
    have hinv := exec_keeps stateInv_of_same effect_stateInv hrun hs
    obtain ⟨t, hreads, hout⟩ := ih hinv (appReady_of_read h rfl rfl rfl (entered_cfg ctx s)) hp (by dsimp only; omega)
    obtain ⟨hpend, harmed, hlog, hmem, hlen, hcur⟩ := hout
    rw [rxUnread_eq_cons hs hp]
    exact ⟨t, ⟨_, hrun, rfl, hreads⟩, hpend, harmed, by rw [hlog, entered_T], hmem, hlen, hcur⟩

/-- Settles O16: the unread bytes are those of memory from the cursor on (`length_read`, `getElem_read`), and the READs return them
(`readsReturn_rxUnread`). -/
theorem pendingFrameIsReadInOrderAndReArmedOnce : Obligations.PendingFrameIsReadInOrderAndReArmedOnce := by
  unfold Obligations.PendingFrameIsReadInOrderAndReArmedOnce
  intro ctx s h hs hp
  obtain ⟨-, ⟨-, hframe⟩, -⟩ := (stateInv_iff s).1 hs
  obtain ⟨-, -, hcur⟩ := hframe hp
  obtain ⟨t, hreads, hpend, harmed, hlog, hmem, hlen, hend⟩ :=
    readsReturn_rxUnread (s.S.rxLen - s.S.rxCur - 1) hs h hp (by omega)
  exact ⟨length_rxUnread hs hp, fun k hk => getElem_read hk, t, hreads, hpend, harmed, hlog, hmem, hlen, hend⟩

/-! ### The bytes on their way to the host (R161) -/

/-- The stream is a matter of the transmit path alone. -/
theorem txStream_of_tx {s t : State} (h : txPart t = txPart s) : txStream t = txStream s := by
  obtain ⟨hdata, hfill, -, hqueue, -, hhost⟩ := txPart_eq_iff.1 h
  simp only [txStream, Memory.read, Memory.area, hdata, hfill, hqueue, hhost]

theorem txStream_eq (s : State) :
    txStream s = s.H.bulkIn.flatten ++ s.T.bulkInQ.flatten ++ s.S.mem.txData.take s.S.txFill := rfl

theorem txStream_entered (ctx : Ctx) (s : State) : txStream (entered ctx s) = txStream s :=
  txStream_of_tx ((keepsBut_entered [] ctx s).tx (by simp))

/-- A flush moves the front of the staged bytes to the queue and the rest to the front of the buffer. -/
theorem txStream_flushCore {s : State} (hs : TxInv s) : txStream (flushCore s) = txStream s := by
  obtain ⟨hcap, hfill, -⟩ := hs
  rcases flushCore_cases s with ⟨-, ht⟩ | ⟨-, -, ht⟩ | ⟨-, -, ht⟩ <;> rw [ht]
  · have hle : flushLength s ≤ s.S.txFill := flushLength_le_txFill s
    have hlen : ((s.S.mem.txData.drop (flushLength s)).take (s.S.txFill - flushLength s)).length = s.S.txFill - flushLength s :=
      length_read (m := s.S.mem) (a := .txData) (by simp only [Memory.area]; omega)
    have hfront := take_writeAt s.S.mem.txData 0 ((s.S.mem.txData.drop (flushLength s)).take (s.S.txFill - flushLength s)) (by omega)
    rw [Nat.zero_add, hlen, List.take_zero, List.nil_append] at hfront
    have hsplit : s.S.mem.txData.take s.S.txFill =
        s.S.mem.txData.take (flushLength s) ++ (s.S.mem.txData.drop (flushLength s)).take (s.S.txFill - flushLength s) := by
      rw [← List.take_add, Nat.add_sub_cancel' hle]
    calc _ = s.H.bulkIn.flatten ++ (s.T.bulkInQ ++ [s.S.mem.txData.take (flushLength s)]).flatten ++
          (writeAt s.S.mem.txData 0 ((s.S.mem.txData.drop (flushLength s)).take (s.S.txFill - flushLength s))).take
            (s.S.txFill - flushLength s) := rfl
      _ = txStream s := by rw [hfront, txStream_eq, hsplit]; simp
  · rfl

/-- Staging with room in the buffer adds its byte at the end. -/
theorem txStream_stage_of_room (b : Byte) {s : State} (hs : TxInv s) (hroom : s.S.txFill < s.cfg.txBufSize) :
    txStream (stage b s) = txStream s ++ [b] := by
  obtain ⟨hcap, -, -⟩ := hs
  have hdata : (stage b s).S.mem.txData = writeAt s.S.mem.txData s.S.txFill [b] := by
    rw [← stageOffset_of_room hroom]
    rfl
  have htake := take_writeAt s.S.mem.txData s.S.txFill [b] (by rw [List.length_singleton]; omega)
  rw [List.length_singleton] at htake
  rw [txStream_eq, txStream_eq, hdata, stage_txFill_of_room b hroom, htake, ← List.append_assoc]
  rfl

/-- Staging into a full buffer replaces the newest byte. -/
theorem txStream_stage_of_full (b : Byte) {s : State} (hs : TxInv s) (hpos : 1 ≤ s.cfg.txBufSize)
    (hfull : s.S.txFill = s.cfg.txBufSize) : txStream (stage b s) = (txStream s).dropLast ++ [b] := by
  obtain ⟨hcap, -, -⟩ := hs
  have hdata : (stage b s).S.mem.txData = writeAt s.S.mem.txData (s.S.txFill - 1) [b] := by
    rw [hfull, ← stageOffset_of_full hfull.ge]
    rfl
  have htake := take_writeAt s.S.mem.txData (s.S.txFill - 1) [b] (by rw [List.length_singleton]; omega)
  rw [List.length_singleton, Nat.sub_add_cancel (by omega)] at htake
  have hlast : (s.S.mem.txData.take s.S.txFill).dropLast = s.S.mem.txData.take (s.S.txFill - 1) := by
    rw [List.dropLast_eq_take, List.take_take, List.length_take]
    congr 1
    omega
  have hne : s.S.mem.txData.take s.S.txFill ≠ [] := List.ne_nil_of_length_pos (by rw [List.length_take]; omega)
  rw [txStream_eq, txStream_eq, hdata, stage_txFill_of_full b hfull.ge, htake, List.dropLast_append_of_ne_nil hne, hlast,
    ← List.append_assoc]
  rfl

theorem txStream_implicitFlush {s : State} (hs : TxInv s) : txStream (implicitFlush s) = txStream s := by
  unfold implicitFlush
  split
  · exact txStream_flushCore hs
  · rfl

theorem txStream_writeStaged (b : Byte) {s : State} (hs : TxInv s) (hroom : s.S.txFill < s.cfg.txBufSize) :
    txStream (writeStaged b s) = txStream s ++ [b] :=
  (txStream_implicitFlush (txInv_stage b hs)).trans (txStream_stage_of_room b hs hroom)

/-- Staging a block adds its first bytes at the end. -/
theorem txStream_stageBlock (bs : List Byte) {s : State} (hs : TxInv s) :
    txStream (stageBlock bs s) = txStream s ++ bs.take (blockLength s bs) := by
  obtain ⟨hcap, hfill, -⟩ := hs
  have hroom : blockLength s bs ≤ s.cfg.txBufSize - s.S.txFill := Nat.min_le_right _ _
  have hlen := length_take_blockLength bs s
  have htake := take_writeAt s.S.mem.txData s.S.txFill (bs.take (blockLength s bs)) (by omega)
  rw [hlen] at htake
  calc _ = s.H.bulkIn.flatten ++ s.T.bulkInQ.flatten ++
        (writeAt s.S.mem.txData s.S.txFill (bs.take (blockLength s bs))).take (s.S.txFill + blockLength s bs) := rfl
    _ = txStream s ++ bs.take (blockLength s bs) := by rw [htake, ← List.append_assoc, txStream_eq]

theorem take_blockLength (bs : List Byte) (s : State) :
    bs.take (blockLength s bs) =
      bs.take (min (min s.cfg.txBufSize s.cfg.bulkInMps - 1) (s.cfg.txBufSize - s.S.txFill)) := by
  rw [blockLength, Nat.min_assoc, Nat.min_comm bs.length, ← List.take_eq_take_min]
  rfl

theorem txStream_writeBlockRun_free (bs : List Byte) {s : State} (hs : TxInv s) (hfree : endpointFree .bulkIn s = true) :
    txStream (writeBlockRun bs s) =
      txStream s ++ bs.take (min (min s.cfg.txBufSize s.cfg.bulkInMps - 1) (s.cfg.txBufSize - s.S.txFill)) := by
  have hdrawn : TxInv s.drawn := hs
  rw [writeBlockRun_free bs hfree]
  exact (txStream_flushCore (txInv_stageBlock bs hdrawn)).trans
    ((txStream_stageBlock bs hdrawn).trans (by rw [take_blockLength]; rfl))

theorem txStream_writeBlockRun_busy (bs : List Byte) {s : State} (hbusy : endpointFree .bulkIn s = false) :
    txStream (writeBlockRun bs s) = txStream s := by
  rw [writeBlockRun_busy bs hbusy]
  rfl

/-- An acknowledged packet moves from the queue to the host. -/
theorem txStream_ackBulkIn (s : State) : txStream (ackBulkIn s) = txStream s := by
  simp only [txStream, ackBulkIn]
  cases s.T.bulkInQ <;> simp

/-- The operations that move no byte in or out: a flush hands over, an acknowledgement receives, and all others leave the path alone. -/
theorem effect_txStream {i : Instr} {s t : State} (h : Effect i s t) (hs : TxInv s) (hb : ∀ ctx b, i ≠ .writeBlocking ctx b)
    (hf : ∀ ctx b, i ≠ .writeFast ctx b) (hw : ∀ ctx bs, i ≠ .writeBlock ctx bs) (hi : ∀ ctx, i ≠ .initializeBlock ctx)
    (hr : i ≠ .busReset) : txStream t = txStream s := by
  cases i
  case writeBlocking ctx b => exact absurd rfl (hb ctx b)
  case writeFast ctx b => exact absurd rfl (hf ctx b)
  case writeBlock ctx bs => exact absurd rfl (hw ctx bs)
  case initializeBlock ctx => exact absurd rfl (hi ctx)
  case busReset => exact absurd rfl hr
  case flush ctx =>
    obtain ⟨-, _, ⟨-, rfl⟩, rfl⟩ := h
    exact (txStream_flushCore (txInv_entered ctx hs)).trans (txStream_entered ctx s)
  case onTransmitComplete =>
    obtain ⟨-, -, -, rfl⟩ := h
    exact txStream_flushCore hs
  case hostAckBulkIn =>
    obtain ⟨-, rfl⟩ := h
    exact txStream_ackBulkIn s
  all_goals exact txStream_of_tx ((effect_frame h).tx (by simp [touches]))

/-- An operation that raised no fault had its effect. -/
theorem effect_of_exec {i : Instr} {s t : State} (h : exec i s = .next t) (hf : t.S.fault = none) : Effect i s t := by
  rcases exec_next h with ⟨r, -, rfl⟩ | he
  · cases hf
  · exact he

/-- An operation that ends with the fault mark set kept the stream: it raised the fault, or is a request that found the mark set. -/
theorem txStream_of_fault {i : Instr} {s t : State} (h : exec i s = .next t) (hf : t.S.fault ≠ none) : txStream t = txStream s := by
  rcases exec_frame h with ⟨r, -, rfl⟩ | ⟨-, hk⟩
  · rfl
  · have hreq : i.isRequest = true := by
      by_contra hno
      exact hf (hk.fault.trans (exec_next_running (Bool.not_eq_true _ ▸ hno) h))
    exact txStream_of_tx (hk.tx (queueFree_of_isRequest hreq).1)

/-- Settles O24: each operation's effect on the stream, a fault's none, and the same for the steps that run no operation. -/
theorem transmittedBytesAreConservedInOrder : Obligations.TransmittedBytesAreConservedInOrder := by
  unfold Obligations.TransmittedBytesAreConservedInOrder
  intro s t hinv
  obtain ⟨hv, -, hs, -⟩ := (stateInv_iff s).1 hinv
  have hroomIn {ctx : Ctx} (h : s.S.txFill < s.cfg.txBufSize) : (entered ctx s).S.txFill < (entered ctx s).cfg.txBufSize := by
    rwa [entered_S, entered_cfg]
  refine ⟨fun i h hb hf hw hi hr => ?_, fun ctx b h hf hroom => ?_, fun ctx b h hfull => ?_, fun ctx b h hf hroom => ?_,
    fun ctx b h hf hfull => ?_, fun ctx bs h hf hfree => ?_, fun ctx bs h hbusy => ?_, fun ctx h => ?_, fun h => ?_,
    fun i h hf => txStream_of_fault h hf, fun b h hres hm => ?_, fun h hn hno => ?_⟩
  · rcases exec_next h with ⟨r, -, rfl⟩ | he
    · rfl
    · exact effect_txStream he hs hb hf hw hi hr
  · obtain ⟨-, _, ⟨-, rfl⟩, ⟨-, rfl⟩ | ⟨hfull, -⟩⟩ := effect_of_exec h hf
    · rw [txStream_writeStaged b (txInv_entered ctx hs) (hroomIn hroom), txStream_entered]
    · exact absurd hroom hfull.not_gt
  · rcases exec_next h with ⟨r, -, rfl⟩ | ⟨-, _, ⟨-, rfl⟩, ⟨hroom, -⟩ | ⟨-, rfl⟩⟩
    · rfl
    · exact absurd hfull hroom.ne
    · exact txStream_entered ctx s
  · obtain ⟨-, _, ⟨-, rfl⟩, rfl⟩ := effect_of_exec h hf
    exact (txStream_stage_of_room b (txInv_entered ctx hs) (hroomIn hroom)).trans (by rw [txStream_entered])
  · obtain ⟨-, _, ⟨-, rfl⟩, rfl⟩ := effect_of_exec h hf
    have hpos : 1 ≤ s.cfg.txBufSize := by
      simp only [Config.valid, Bool.and_eq_true, decide_eq_true_eq] at hv
      omega
    refine (txStream_stage_of_full b (txInv_entered ctx hs) (by rwa [entered_cfg]) ?_).trans (by rw [txStream_entered])
    rwa [entered_S, entered_cfg]
  · obtain ⟨-, _, ⟨-, rfl⟩, rfl⟩ := effect_of_exec h hf
    rw [txStream_writeBlockRun_free bs (txInv_entered ctx hs) (by rw [endpointFree_entered]; exact (endpointFree_iff _ _).2 hfree),
      txStream_entered, entered_cfg, entered_S]
  · rcases exec_next h with ⟨r, -, rfl⟩ | ⟨-, _, ⟨-, rfl⟩, rfl⟩
    · rfl
    · rw [txStream_writeBlockRun_busy bs (by rw [endpointFree_entered]; exact (endpointFree_eq_false_iff _ _).2 hbusy),
        txStream_entered]
  · obtain ⟨-, -, ht | ⟨_, ht, -⟩⟩ := asApp_enters h <;> cases ht
    rw [← entered_H ctx s, ← entered_T ctx s]
    exact List.append_nil _
  · obtain ⟨-, rfl⟩ := asEnvAlways_next h
    simp [txStream_eq]
  · obtain ⟨-, ⟨-, hm', -, -⟩ | ⟨-, b', hm', hroom, rfl⟩ | ⟨hno, -⟩⟩ := step_none h (nextOp_of_resumes hres)
    · cases hm.symm.trans hm'
    · cases hm.symm.trans hm'
      exact txStream_writeStaged b (s := s.popTurn.setMain .ready) hs hroom
    · exact absurd hres hno
  · obtain ⟨-, ⟨-, -, -, rfl⟩ | ⟨hres, b, hm, -, -⟩ | ⟨-, rfl⟩⟩ := step_none h hn
    · exact txStream_of_tx ((keepsBut_readTake (s.popTurn.setMain .ready)).tx (by simp))
    · exact absurd hm (hno hres b)
    · rfl

end Sys2Proof.Machine
end
